-- ==== Sys2Proof/Word.lean ====
section
/-! DEFINITION. The two word types of the block: the byte of the data spaces (R61) and the 32-bit value in which the
host reads a register (R20). Numbers that only count or address are `Nat` (R7). -/

namespace Sys2Proof

/-- A byte: "an unsigned integer 0 to 255" (R7), the unit of `TXT`, `IMG` and `SEC` (R61). -/
abbrev Byte := BitVec 8

/-- A register value as the host sees it, "zero-extended to 32 bits" (R20); also the widest register (R6). -/
abbrev Word := BitVec 32

end Sys2Proof
end

