-- ==== Sys2Proof/Config.lean ====
section
/-! DEFINITION. What the document fixes as parameters (R6), the recommended value of the one open parameter, and the
one free value of the model: the content of a `TXT` cell that nothing has written since reset (R50, R283, U2). -/

namespace Sys2Proof.Config

/-- Bytes in one block (R6, R67). -/
def blockBytes : Nat := 16

/-- Blocks per sector for sector indices 0 to 31 (R6). -/
def smallSectorBlocks : Nat := 4

/-- Blocks per sector for sector indices 32 to 39 (R6). -/
def bigSectorBlocks : Nat := 16

/-- Number of sector indices that use 4 blocks (R6). -/
def smallSectors : Nat := 32

/-- Sector index at which iteration stops (R6). -/
def maxSectors : Nat := 40

/-- Base of the production year (R6, R35). -/
def yearBase : Nat := 2000

/-- The recommended capacity of `TXT` (R6, D5). The parameter itself is open: it is the field `txtMax` of `State`,
which no step writes, and `State.reset` gives it this value. DESIGN CHOICE, log entry 4. -/
def txtMaxRecommended : Nat := 65536

/-- The smallest capacity of `TXT` that R6 admits. -/
def txtMaxLeast : Nat := 16

/-- The content of the `TXT` cell at an address (second argument) that the host has not written since the reset
numbered by the first argument: "each such cell holds some byte, fixed until written" (U2, R283). A free value:
nothing constrains it. Log entry 3. -/
opaque txtUnspecified : Nat → Nat → Byte

end Sys2Proof.Config
end

