-- ==== Sys2Proof/Syntax.lean ====
section
/-! DEFINITION. The syntax: the four address spaces and the host's accesses (R60, R285), and the one inductive `Instr`
with one constructor per row of the opcode table. The table has four formats: command words written to `CMD`
(CMDW, R106 to R108), 3-bit patterns of an access field (ACCFIELD, R103, R183), manufacturer codes (MFRCODE, R172) and
error codes (ERRCODE, R109). Only CMDW rows are commands; what a row of the other three formats means as an `Instr` is
log entry 1. -/

namespace Sys2Proof

/-- The four address spaces (R60). -/
inductive Space where
  | reg
  | txt
  | img
  | sec
deriving DecidableEq, Repr

/-- What the host can do to the block, "exactly: read any address of the four address spaces ..., write the writable
ones, and assert reset" (R12, R285). One access is one step. -/
inductive HostAccess where
  /-- the reset event (R280) -/
  | reset
  /-- `read(space, address) -> value` (R285) -/
  | read (sp : Space) (addr : Nat)
  /-- `write(space, address, value)` (R285); the value is what the port carries, 32 bits (log entry 8) -/
  | write (sp : Space) (addr : Nat) (v : Word)
deriving DecidableEq, Repr

/-- The three 3-bit fields of the access string: read `S[0:3)`, write `S[3:6)`, increment/decrement `S[6:9)` (R102). -/
inductive AccField where
  | read
  | write
  | incDec
deriving DecidableEq, Repr

/-- One constructor per row of the opcode table, in the table's order. -/
inductive Instr where
  -- command words (R107)
  | clear
  | parse
  | validate
  | lookup
  | accdec
  | resolve
  | decode
  -- illegal command words (R108); the operand is the whole word, of which the named bit is the lowest reserved bit
  -- that is set (the five rows of the table overlap: log entry 2)
  | illegalOpc7
  | illegalBit3 (w : Byte)
  | illegalBit4 (w : Byte)
  | illegalBit5 (w : Byte)
  | illegalBit6 (w : Byte)
  | illegalBit7 (w : Byte)
  -- patterns of an access field (R183); the operand says which of the three fields holds the pattern
  | tierNoAccess000 (f : AccField)
  | tierAlways001 (f : AccField)
  | tierKeya010 (f : AccField)
  | tierKeyb011 (f : AccField)
  | tierNoauth100 (f : AccField)
  | tierEither101 (f : AccField)
  | tierInvalid110 (f : AccField)
  | tierInvalid111 (f : AccField)
  -- manufacturer codes (R172); the operand of the default is the code, one of the 220 without a row
  | mfr00
  | mfr04
  | mfr05
  | mfr07
  | mfr0A
  | mfr0B
  | mfr0C
  | mfr0F
  | mfr11
  | mfr13
  | mfr1F
  | mfr2B
  | mfr2E
  | mfr39
  | mfr3F
  | mfr41
  | mfr43
  | mfr4A
  | mfr4D
  | mfr55
  | mfr6A
  | mfr7C
  | mfr88
  | mfr8A
  | mfrA0
  | mfrA1
  | mfrB0
  | mfrB3
  | mfrC0
  | mfrC1
  | mfrC2
  | mfrD2
  | mfrE0
  | mfrE1
  | mfrF0
  | mfrFF
  | mfrDefault (code : Byte)
  -- error codes (R250); the operands are the error record of `InvalidHexToken` (R24)
  | errNoBlockData
  | errInvalidHexToken (line off len : Word)
  | errTooShortForBlock0
  | errMisalignedImage
  | errUnsupportedCardSize
deriving DecidableEq, Repr

end Sys2Proof
end

