-- ==== Sys2Proof/WellFormed.lean ====
section
/-! DEFINITION. Which terms of `Instr` stand for an encoding: the named bit of an illegal word is its lowest reserved
bit that is set, the default manufacturer row is for a code without a row, and an error record names a line from 1. -/

namespace Sys2Proof

/-- The 36 manufacturer codes that have a row of their own in the opcode table (R172, in the table's order). -/
def mfrCodes : List Byte :=
  [0x00, 0x04, 0x05, 0x07, 0x0A, 0x0B, 0x0C, 0x0F, 0x11, 0x13, 0x1F, 0x2B,
   0x2E, 0x39, 0x3F, 0x41, 0x43, 0x4A, 0x4D, 0x55, 0x6A, 0x7C, 0x88, 0x8A,
   0xA0, 0xA1, 0xB0, 0xB3, 0xC0, 0xC1, 0xC2, 0xD2, 0xE0, 0xE1, 0xF0, 0xFF]

/-- Whether a term of `Instr` stands for an encoding of the table. -/
def Instr.wellFormed : Instr → Bool
  | .clear | .parse | .validate | .lookup | .accdec | .resolve | .decode => true
  | .illegalOpc7 => true
  | .illegalBit3 w => w.getLsbD 3
  | .illegalBit4 w => w.getLsbD 4 && !w.getLsbD 3
  | .illegalBit5 w => w.getLsbD 5 && !w.getLsbD 4 && !w.getLsbD 3
  | .illegalBit6 w => w.getLsbD 6 && !w.getLsbD 5 && !w.getLsbD 4 && !w.getLsbD 3
  | .illegalBit7 w => w.getLsbD 7 && !w.getLsbD 6 && !w.getLsbD 5 && !w.getLsbD 4 && !w.getLsbD 3
  | .tierNoAccess000 _ | .tierAlways001 _ => true
  | .tierKeya010 _ | .tierKeyb011 _ => true
  | .tierNoauth100 _ | .tierEither101 _ => true
  | .tierInvalid110 _ | .tierInvalid111 _ => true
  | .mfr00 | .mfr04 | .mfr05 | .mfr07 | .mfr0A | .mfr0B | .mfr0C | .mfr0F | .mfr11 => true
  | .mfr13 | .mfr1F | .mfr2B | .mfr2E | .mfr39 | .mfr3F | .mfr41 | .mfr43 | .mfr4A => true
  | .mfr4D | .mfr55 | .mfr6A | .mfr7C | .mfr88 | .mfr8A | .mfrA0 | .mfrA1 | .mfrB0 => true
  | .mfrB3 | .mfrC0 | .mfrC1 | .mfrC2 | .mfrD2 | .mfrE0 | .mfrE1 | .mfrF0 | .mfrFF => true
  | .mfrDefault code => !mfrCodes.contains code
  | .errInvalidHexToken line _ _ => line != 0
  | .errNoBlockData | .errTooShortForBlock0 | .errMisalignedImage | .errUnsupportedCardSize => true

end Sys2Proof
end

