-- ==== Sys2Proof/Decode.lean ====
section
/-! DEFINITION. Decoding and encoding. A word means what it means at the PLACE where it stands: a command word in `CMD`
(R106), a pattern in a field of the access string (R102), a code in the manufacturer byte (R105), a code in the error
record `ERR`, `ERR_LINE`, `ERR_TOK_OFF`, `ERR_TOK_LEN` (R24, R109). The block fetches nothing (R45): the one word that
starts anything is the one the host writes to `CMD`, so the decoder of that place is the one `step` uses, and the one
`decodeTableWord` answers with (log entry 1). -/

namespace Sys2Proof

/-- Where an encoding of the table stands. -/
inductive Place where
  /-- the register `CMD` (R21) -/
  | cmd
  /-- a field of the access string (R102) -/
  | accField (f : AccField)
  /-- the manufacturer code byte, `ARG[0]` of `LOOKUP` or `IMG[5]` (R105) -/
  | mfrCode
  /-- the register `ERR`, beside it the three other registers of the error record (R24) -/
  | errRecord (line off len : Word)
deriving DecidableEq, Repr

/-- Why a decoder refuses. -/
inductive DecodeError where
  /-- no byte is given -/
  | noWord
  /-- a value of more than 3 bits in a 3-bit place -/
  | tooWide
  /-- an error code 0, 6 or 7: no row of the table; 6 and 7 are "never produced" (R109) -/
  | noSuchError
  /-- a code other than `InvalidHexToken` with a nonzero record ("When `ERR != 2` all three are 0", R24) -/
  | recordNotZero
  /-- `InvalidHexToken` with line number 0 ("counted from 1", R24) -/
  | lineZero
deriving DecidableEq, Repr

/-- The command word: legal when bits 7 to 3 are zero and the operation code is not 7 (R106 to R108). An illegal word
with several reserved bits set is given to the row of its lowest one (log entry 2). -/
def decodeCmd (w : Byte) : Instr :=
  if w.getLsbD 3 then .illegalBit3 w
  else if w.getLsbD 4 then .illegalBit4 w
  else if w.getLsbD 5 then .illegalBit5 w
  else if w.getLsbD 6 then .illegalBit6 w
  else if w.getLsbD 7 then .illegalBit7 w
  else match (w.extractLsb' 0 3).toNat with
    | 0 => .clear
    | 1 => .parse
    | 2 => .validate
    | 3 => .lookup
    | 4 => .accdec
    | 5 => .resolve
    | 6 => .decode
    | _ => .illegalOpc7

/-- The pattern in the field `f` of the access string, first string position most significant (R103, R182). -/
def decodeTier (f : AccField) (p : BitVec 3) : Instr :=
  match p.toNat with
  | 0 => .tierNoAccess000 f
  | 1 => .tierAlways001 f
  | 2 => .tierKeya010 f
  | 3 => .tierKeyb011 f
  | 4 => .tierNoauth100 f
  | 5 => .tierEither101 f
  | 6 => .tierInvalid110 f
  | _ => .tierInvalid111 f

/-- The manufacturer code byte (R105, R172). -/
def decodeMfr (c : Byte) : Instr :=
  match c.toNat with
  | 0x00 => .mfr00
  | 0x04 => .mfr04
  | 0x05 => .mfr05
  | 0x07 => .mfr07
  | 0x0A => .mfr0A
  | 0x0B => .mfr0B
  | 0x0C => .mfr0C
  | 0x0F => .mfr0F
  | 0x11 => .mfr11
  | 0x13 => .mfr13
  | 0x1F => .mfr1F
  | 0x2B => .mfr2B
  | 0x2E => .mfr2E
  | 0x39 => .mfr39
  | 0x3F => .mfr3F
  | 0x41 => .mfr41
  | 0x43 => .mfr43
  | 0x4A => .mfr4A
  | 0x4D => .mfr4D
  | 0x55 => .mfr55
  | 0x6A => .mfr6A
  | 0x7C => .mfr7C
  | 0x88 => .mfr88
  | 0x8A => .mfr8A
  | 0xA0 => .mfrA0
  | 0xA1 => .mfrA1
  | 0xB0 => .mfrB0
  | 0xB3 => .mfrB3
  | 0xC0 => .mfrC0
  | 0xC1 => .mfrC1
  | 0xC2 => .mfrC2
  | 0xD2 => .mfrD2
  | 0xE0 => .mfrE0
  | 0xE1 => .mfrE1
  | 0xF0 => .mfrF0
  | 0xFF => .mfrFF
  | _ => .mfrDefault c

/-- The error record: the code of `ERR` (R109) and the three registers beside it (R24). -/
def decodeErr (line off len : Word) (c : BitVec 3) : Except DecodeError Instr :=
  if c = 2 then
    if line = 0 then .error .lineZero else .ok (.errInvalidHexToken line off len)
  else if line ≠ 0 ∨ off ≠ 0 ∨ len ≠ 0 then
    if c = 0 ∨ c = 6 ∨ c = 7 then .error .noSuchError else .error .recordNotZero
  else match c.toNat with
    | 1 => .ok .errNoBlockData
    | 3 => .ok .errTooShortForBlock0
    | 4 => .ok .errMisalignedImage
    | 5 => .ok .errUnsupportedCardSize
    | _ => .error .noSuchError

/-- The instruction that the word `w` stands for at a place. -/
def decodeAt : Place → Byte → Except DecodeError Instr
  | .cmd, w => .ok (decodeCmd w)
  | .accField f, w => if w.toNat < 8 then .ok (decodeTier f (w.setWidth 3)) else .error .tooWide
  | .mfrCode, w => .ok (decodeMfr w)
  | .errRecord line off len, w =>
      if w.toNat < 8 then decodeErr line off len (w.setWidth 3) else .error .tooWide

/-- One command word from a sequence of bytes: total, one byte long (R106). -/
def decodeBytes : List Byte → Except DecodeError (Instr × List Byte)
  | [] => .error .noWord
  | w :: rest => .ok (decodeCmd w, rest)

/-- The bytes of a word of the opcode table: every word of the table fits in one byte. -/
def tableBytes (nbits w : Nat) : List Byte :=
  if nbits = 0 then [] else [BitVec.ofNat 8 (w % 2 ^ nbits)]

/-- What the block's decoder (the one of `CMD`) reads from a word of the opcode table. -/
def decodeTableWord (nbits w : Nat) : Option Instr :=
  match decodeBytes (tableBytes nbits w) with
  | .ok (i, _) => some i
  | .error _ => none

/-- The place at which an instruction's word stands. -/
def Instr.place : Instr → Place
  | .clear | .parse | .validate | .lookup | .accdec | .resolve | .decode => .cmd
  | .illegalOpc7 => .cmd
  | .illegalBit3 _ | .illegalBit4 _ | .illegalBit5 _ | .illegalBit6 _ | .illegalBit7 _ => .cmd
  | .tierNoAccess000 f | .tierAlways001 f => .accField f
  | .tierKeya010 f | .tierKeyb011 f => .accField f
  | .tierNoauth100 f | .tierEither101 f => .accField f
  | .tierInvalid110 f | .tierInvalid111 f => .accField f
  | .mfr00 | .mfr04 | .mfr05 | .mfr07 | .mfr0A | .mfr0B | .mfr0C | .mfr0F | .mfr11 => .mfrCode
  | .mfr13 | .mfr1F | .mfr2B | .mfr2E | .mfr39 | .mfr3F | .mfr41 | .mfr43 | .mfr4A => .mfrCode
  | .mfr4D | .mfr55 | .mfr6A | .mfr7C | .mfr88 | .mfr8A | .mfrA0 | .mfrA1 | .mfrB0 => .mfrCode
  | .mfrB3 | .mfrC0 | .mfrC1 | .mfrC2 | .mfrD2 | .mfrE0 | .mfrE1 | .mfrF0 | .mfrFF => .mfrCode
  | .mfrDefault _ => .mfrCode
  | .errInvalidHexToken line off len => .errRecord line off len
  | .errNoBlockData | .errTooShortForBlock0 | .errMisalignedImage | .errUnsupportedCardSize => .errRecord 0 0 0

/-- The word of an instruction, from the encoding tables (R103, R107 to R109, R172). -/
def encode : Instr → Byte
  | .clear => 0x00
  | .parse => 0x01
  | .validate => 0x02
  | .lookup => 0x03
  | .accdec => 0x04
  | .resolve => 0x05
  | .decode => 0x06
  | .illegalOpc7 => 0x07
  | .illegalBit3 w | .illegalBit4 w | .illegalBit5 w | .illegalBit6 w | .illegalBit7 w => w
  | .tierNoAccess000 _ => 0b000
  | .tierAlways001 _ => 0b001
  | .tierKeya010 _ => 0b010
  | .tierKeyb011 _ => 0b011
  | .tierNoauth100 _ => 0b100
  | .tierEither101 _ => 0b101
  | .tierInvalid110 _ => 0b110
  | .tierInvalid111 _ => 0b111
  | .mfr00 => 0x00
  | .mfr04 => 0x04
  | .mfr05 => 0x05
  | .mfr07 => 0x07
  | .mfr0A => 0x0A
  | .mfr0B => 0x0B
  | .mfr0C => 0x0C
  | .mfr0F => 0x0F
  | .mfr11 => 0x11
  | .mfr13 => 0x13
  | .mfr1F => 0x1F
  | .mfr2B => 0x2B
  | .mfr2E => 0x2E
  | .mfr39 => 0x39
  | .mfr3F => 0x3F
  | .mfr41 => 0x41
  | .mfr43 => 0x43
  | .mfr4A => 0x4A
  | .mfr4D => 0x4D
  | .mfr55 => 0x55
  | .mfr6A => 0x6A
  | .mfr7C => 0x7C
  | .mfr88 => 0x88
  | .mfr8A => 0x8A
  | .mfrA0 => 0xA0
  | .mfrA1 => 0xA1
  | .mfrB0 => 0xB0
  | .mfrB3 => 0xB3
  | .mfrC0 => 0xC0
  | .mfrC1 => 0xC1
  | .mfrC2 => 0xC2
  | .mfrD2 => 0xD2
  | .mfrE0 => 0xE0
  | .mfrE1 => 0xE1
  | .mfrF0 => 0xF0
  | .mfrFF => 0xFF
  | .mfrDefault code => code
  | .errNoBlockData => 1
  | .errInvalidHexToken _ _ _ => 2
  | .errTooShortForBlock0 => 3
  | .errMisalignedImage => 4
  | .errUnsupportedCardSize => 5

end Sys2Proof
end

