-- ==== Sys2Proof/Machine/State.lean ====
section
/-! DEFINITION. The state of the block as plain data (R20): the registers of space `REG` in groups, the memories `TXT`
and `IMG`, the sector table `SEC`, and the model's own four fields (`txtMax`, `txtEpoch`, `pending`, `readData`). The
values that no rule produces (`ST = 3`, `ERR` 6 and 7, `GEOM = 3`, tier 7) are not values of the types (U4, log entry
9). Nothing else is state (R20, R47): the cursors of R45 live only inside the operations. -/

namespace Sys2Proof.Machine

/-- `STATUS.ST` (R22, R110); the value 3 is never read and is not a value of the type. -/
inductive St where
  /-- no operation has run since reset or `CLEAR` -/
  | idle
  /-- the last legal operation ended without error -/
  | done
  /-- the last legal operation ended with one of the five errors -/
  | error
deriving DecidableEq, Repr

/-- The values of `ERR` (R23, R109); 6 and 7 are never produced and are not values of the type. -/
inductive ErrCode where
  | noError
  | noBlockData
  | invalidHexToken
  | tooShortForBlock0
  | misalignedImage
  | unsupportedCardSize
deriving DecidableEq, Repr

/-- The values of `GEOM` (R27, R110); 3 is never produced and is not a value of the type. -/
inductive Geom where
  /-- no layout -/
  | none
  /-- the "1K" geometry, 64 blocks -/
  | k1
  /-- the "4K" geometry, 256 blocks -/
  | k4
deriving DecidableEq, Repr

/-- The seven tiers of the access enum (R103); the code 7 is never produced and is not a value of the type. -/
inductive Tier where
  | noAccess
  | always
  | keyA
  | keyB
  | noAuth
  | either
  | invalid
deriving DecidableEq, Repr

/-- The register `STATUS` (R22) by its fields. -/
structure StatusReg where
  /-- bits [1:0] -/
  st : St
  /-- bit 2: `IMG[0:IMG_LEN)` holds a complete ByteImage -/
  imgValid : Bool
  /-- bit 3: the `B0_*` registers hold the Block0Info of the image in `IMG` -/
  b0Valid : Bool
  /-- bit 4: `GEOM`, `SEC_COUNT`, `SEC` hold the CardLayout of the image in `IMG` -/
  layValid : Bool
  /-- bit 5: `RES` holds the result of a leaf operation -/
  resValid : Bool
  /-- bit 6: the most recent write to `CMD` was an illegal command word -/
  illcmd : Bool
deriving DecidableEq, Repr

/-- The error record: `ERR` (R23) and `ERR_LINE`, `ERR_TOK_OFF`, `ERR_TOK_LEN` (R24). -/
structure ErrRegs where
  code : ErrCode
  line : Word
  tokOff : Word
  tokLen : Word
deriving DecidableEq, Repr

/-- The `B0_*` registers (R29 to R36), the document's Block0Info (R49). -/
structure Block0Regs where
  uid0 : Byte
  uid1 : Byte
  uid2 : Byte
  uid3 : Byte
  bcc : Byte
  bccExp : Byte
  bccOk : Bool
  mfrCode : Byte
  mfrId : BitVec 6
  year : BitVec 16
  week : BitVec 4
deriving DecidableEq, Repr

/-- The operand registers `ARG[0]` to `ARG[4]` (R37). -/
structure ArgRegs where
  a0 : Byte
  a1 : Byte
  a2 : Byte
  a3 : Byte
  a4 : Byte
deriving DecidableEq, Repr

/-- The result registers `RES[0]` to `RES[2]` (R38). -/
structure ResRegs where
  r0 : Byte
  r1 : Byte
  r2 : Byte
deriving DecidableEq, Repr

/-- A memory: the cells that differ from what an unlisted address reads as, by rising address (`Memory.wf`). -/
abbrev Memory := List Host.Cell

/-- The state of the block, with the model's own fields last. -/
structure State where
  /-- `STATUS`, register 0x01 (R22) -/
  status : StatusReg
  /-- `ERR`, `ERR_LINE`, `ERR_TOK_OFF`, `ERR_TOK_LEN`, registers 0x02 to 0x05 (R23, R24) -/
  err : ErrRegs
  /-- `TXT_LEN`, register 0x06 (R25) -/
  txtLen : Word
  /-- `IMG_LEN`, register 0x07 (R26) -/
  imgLen : Word
  /-- `GEOM`, register 0x08 (R27) -/
  geom : Geom
  /-- `SEC_COUNT`, register 0x09 (R28) -/
  secCount : BitVec 6
  /-- `B0_*`, registers 0x0A to 0x14 (R29 to R36) -/
  b0 : Block0Regs
  /-- `ARG[0..4]`, registers 0x18 to 0x1C (R37) -/
  arg : ArgRegs
  /-- `RES[0..2]`, registers 0x1D to 0x1F (R38) -/
  res : ResRegs
  /-- the text memory `TXT` (R41) -/
  txt : Memory
  /-- the image memory `IMG` (R42) -/
  img : Memory
  /-- the sector table `SEC` (R43), 1280 bytes -/
  sec : Memory
  /-- MODEL'S OWN: the open parameter `TXT_MAX` (R6, D5); no step writes it (log entry 4) -/
  txtMax : Nat
  /-- MODEL'S OWN: how many resets there have been; it selects the free content of unwritten `TXT` cells (log entry 3) -/
  txtEpoch : Nat
  /-- MODEL'S OWN: the host accesses still to come, the next one first (R76, log entry 5) -/
  pending : List HostAccess
  /-- MODEL'S OWN: the value the most recent host read returned (R285, log entry 5) -/
  readData : Word
deriving DecidableEq, Repr

/-- Nothing stops this machine: "it never faults" (R80), "never a crash" (R288), no behaviour is stuck (93, part 1). The
type has no constructor: no rule raises a fault, which is safe, since no step can then hide an effect behind one. The
five format errors are results the machine goes on from (R258, R260). -/
inductive Fault : Type
deriving DecidableEq, Repr

/-- Why the machine gives an instruction no meaning. -/
inductive Refusal where
  /-- Raised by an arm of `exec` whose instruction has no meaning yet, with the row's mnemonic; no arm is one now. Safe:
  nothing is claimed about such an instruction. -/
  | notModelled (mnemonic : String)
deriving DecidableEq, Repr

/-- No error: the record `ERR = 0` with its three registers 0 (R24). -/
def ErrRegs.clear : ErrRegs := ⟨.noError, 0, 0, 0⟩

/-- All `B0_*` registers 0 (R50). -/
def Block0Regs.zero : Block0Regs := ⟨0, 0, 0, 0, 0, 0, false, 0, 0, 0, 0⟩

/-- The machine right after reset (R50, R281): every register 0, `SEC` all 0, no cell of `TXT` or `IMG` written. The
model's own fields: `TXT_MAX` at its recommended value (log entry 4), no earlier reset, no access pending, nothing read
yet (log entry 5). -/
def State.reset : State where
  status := ⟨.idle, false, false, false, false, false⟩
  err := .clear
  txtLen := 0
  imgLen := 0
  geom := .none
  secCount := 0
  b0 := .zero
  arg := ⟨0, 0, 0, 0, 0⟩
  res := ⟨0, 0, 0⟩
  txt := []
  img := []
  sec := []
  txtMax := Config.txtMaxRecommended
  txtEpoch := 0
  pending := []
  readData := 0

end Sys2Proof.Machine
end

