-- ==== Sys2Proof/Machine/Ops.lean ====
section
/-! DEFINITION. The named operations over memory and registers that the meanings share: reading and writing a memory in
its canonical form, the "start" blocks of the operations (R141, R210, R228), the raise of an error (R258) and the
return from the error state (R260). -/

namespace Sys2Proof.Machine

/-- What an unlisted address of a space reads as: no value in `TXT` ("each cell as holding no value until the host
writes it", R50), 0 in `SEC` (R43, R50) and in `IMG` (unobservable, U3, log entry 7). -/
def background : Space → Option Byte
  | .txt => none
  | .reg | .img | .sec => some 0

/-- The listed value at an address. -/
def Memory.get? : Memory → Nat → Option Byte
  | [], _ => none
  | (b, v) :: m, a => if b = a then some v else Memory.get? m a

/-- List a value at an address, at its place in the rising order. -/
def Memory.put : Memory → Nat → Byte → Memory
  | [], a, v => [(a, v)]
  | (b, w) :: m, a, v =>
      if a < b then (a, v) :: (b, w) :: m
      else if a = b then (a, v) :: m
      else (b, w) :: Memory.put m a v

/-- Unlist an address. -/
def Memory.erase (m : Memory) (a : Nat) : Memory := m.filter (fun c => c.1 ≠ a)

/-- The byte at an address of a space, listed or not. -/
def Memory.read (sp : Space) (m : Memory) (a : Nat) : Option Byte := (m.get? a).or (background sp)

/-- Write one byte of a space; the value an unlisted address reads as is not listed. -/
def Memory.write (sp : Space) (m : Memory) (a : Nat) (v : Byte) : Memory :=
  if background sp = some v then m.erase a else m.put a v

/-- `MemWrite(space, a, n, bytes)` (R10): byte `k` of the sequence goes to address `a + k`. -/
def Memory.writeRange (sp : Space) (m : Memory) (a : Nat) : List Byte → Memory
  | [] => m
  | v :: vs => Memory.write sp (Memory.writeRange sp m (a + 1) vs) a v

/-- The canonical form: strictly rising addresses, and no entry equal to what an unlisted address reads as. -/
abbrev Memory.wf (sp : Space) (m : Memory) : Prop :=
  m.Pairwise (fun c d => c.1 < d.1) ∧ ∀ c ∈ m, background sp ≠ some c.2

/-- Every listed address is below `n`. -/
abbrev Memory.below (m : Memory) (n : Nat) : Prop := ∀ c ∈ m, c.1 < n

/-- The five errors with what they record (R250): the model's `FormatError` of R11. The numbers are a line number, a
`TXT` offset and a length (R137). -/
inductive FormatError where
  | noBlockData
  | invalidHexToken (line off len : Nat)
  | tooShortForBlock0
  | misalignedImage
  | unsupportedCardSize
deriving DecidableEq, Repr

/-- The code of an error in `ERR` (R109). -/
def FormatError.code : FormatError → ErrCode
  | .noBlockData => .noBlockData
  | .invalidHexToken _ _ _ => .invalidHexToken
  | .tooShortForBlock0 => .tooShortForBlock0
  | .misalignedImage => .misalignedImage
  | .unsupportedCardSize => .unsupportedCardSize

/-- The number of an error code (R109). -/
def ErrCode.toBits : ErrCode → BitVec 3
  | .noError => 0
  | .noBlockData => 1
  | .invalidHexToken => 2
  | .tooShortForBlock0 => 3
  | .misalignedImage => 4
  | .unsupportedCardSize => 5

/-- The number of a geometry (R110). -/
def Geom.toBits : Geom → BitVec 2
  | .none => 0
  | .k1 => 1
  | .k4 => 2

/-- The tier code (R103). -/
def Tier.code : Tier → Byte
  | .noAccess => 0
  | .always => 1
  | .keyA => 2
  | .keyB => 3
  | .noAuth => 4
  | .either => 5
  | .invalid => 6

/-- The first two lines of every legal operation but `CLEAR`: `ILLCMD <- 0` and the error record to 0 (R141, R163). It
is also the return from the error state: "The host leaves the error state by issuing any legal command: each begins by
clearing `ERR`, ..." (R260). -/
def State.beginCommand (s : State) : State :=
  { s with status := { s.status with illcmd := false }, err := .clear }

/-- `IMG_VALID <- 0; IMG_LEN <- 0` (R141). The cells stay, unobservable (R42, R73). -/
def State.dropImage (s : State) : State :=
  { s with status := { s.status with imgValid := false }, imgLen := 0 }

/-- `B0_VALID <- 0; all B0_* registers <- 0` (R141). -/
def State.dropBlock0 (s : State) : State :=
  { s with status := { s.status with b0Valid := false }, b0 := .zero }

/-- `LAY_VALID <- 0; GEOM <- 0; SEC_COUNT <- 0; every byte of SEC <- 0` (R141). -/
def State.dropLayout (s : State) : State :=
  { s with status := { s.status with layValid := false }, geom := .none, secCount := 0, sec := [] }

/-- The "start" block of `PARSE` and `DECODE` (R141, R228). -/
def State.startImage (s : State) : State := s.beginCommand.dropImage.dropBlock0.dropLayout

/-- The "start" block of `RESOLVE` (R210). -/
def State.startLayout (s : State) : State := s.beginCommand.dropLayout

/-- The error record that a raise leaves (R258): the code, and for `InvalidHexToken` its line, offset and length. -/
def ErrRegs.record (e : FormatError) (r : ErrRegs) : ErrRegs :=
  match e with
  | .invalidHexToken line off len => ⟨.invalidHexToken, .ofNat 32 line, .ofNat 32 off, .ofNat 32 len⟩
  | e => { r with code := e.code }

/-- `raise E(info)`: taking an error (R256, R258). `ST <- ERROR`, `ERR <- code`, and for `InvalidHexToken` the three
other registers of the record; "Nothing is saved anywhere else: there is no stack, no saved program counter, no mode
change, no mask, no vector, and control goes nowhere". -/
def State.raise (e : FormatError) (s : State) : State :=
  { s with status := { s.status with st := .error }, err := s.err.record e }

/-- `ST <- DONE`. -/
def State.markDone (s : State) : State := { s with status := { s.status with st := .done } }

/-- The end of a leaf operation: `RES`, all three at once, `RES_VALID <- 1`, `ST <- DONE` (R38, R163, R174, R186). -/
def State.setRes (r0 r1 r2 : Byte) (s : State) : State :=
  { s with status := { s.status with resValid := true, st := .done }, res := ⟨r0, r1, r2⟩ }

/-- A whole leaf operation with its results computed (R163, R174, R186). -/
def State.leafResult (r0 r1 r2 : Byte) (s : State) : State := s.beginCommand.setRes r0 r1 r2

/-- `MemWrite(IMG, 0, len(image), image); IMG_LEN <- len(image); IMG_VALID <- 1` (R141, R228). -/
def State.storeImage (image : List Byte) (s : State) : State :=
  { s with
    status := { s.status with imgValid := true }
    imgLen := .ofNat 32 image.length
    img := Memory.writeRange .img s.img 0 image }

/-- The `B0_*` registers and `B0_VALID` on success (R226). -/
def State.storeBlock0 (b : Block0Regs) (s : State) : State :=
  { s with status := { s.status with b0Valid := true }, b0 := b }

/-- The reset event, from any state (R280, R281): the registers and `SEC` of R50, the cells of `TXT` and `IMG`
unspecified. `TXT_MAX` is a parameter; the accesses the host has still to make and the value it read last are the
host's, not the block's (log entries 4, 5, 10). -/
def State.hostReset (s : State) : State :=
  { State.reset with
    txtMax := s.txtMax
    txtEpoch := s.txtEpoch + 1
    pending := s.pending
    readData := s.readData }

end Sys2Proof.Machine
end

