-- ==== Sys2Proof/Machine/Flags.lean ====
section
/-! DEFINITION. The register `STATUS` as the host reads it (R22). The flags themselves are written by the operations,
each where R46 says: `beginCommand`, `dropImage`, `dropBlock0`, `dropLayout`, `storeImage`, `storeBlock0`, `setRes`,
`markDone`, `raise` of Machine/Ops.lean, `storeLayout` of Machine/SectorLayout.lean and `setIllcmd` here. No operation
reads a flag (R46). -/

namespace Sys2Proof.Machine

/-- The code of `STATUS.ST` (R110). -/
def St.toBits : St → BitVec 2
  | .idle => 0
  | .done => 1
  | .error => 2

/-- `STATUS`: `ST` in bits [1:0], then `IMG_VALID`, `B0_VALID`, `LAY_VALID`, `RES_VALID`, `ILLCMD` in bits 2 to 6. -/
def StatusReg.word (r : StatusReg) : BitVec 7 :=
  BitVec.ofBool r.illcmd ++ BitVec.ofBool r.resValid ++ BitVec.ofBool r.layValid ++ BitVec.ofBool r.b0Valid ++ BitVec.ofBool r.imgValid ++ r.st.toBits

/-- A truth value as a byte, 0 or 1 (R38). -/
def boolByte (b : Bool) : Byte := if b then 1 else 0

/-- `STATUS.ILLCMD <- 1` "and nothing else" (R236). -/
def State.setIllcmd (s : State) : State := { s with status := { s.status with illcmd := true } }

end Sys2Proof.Machine
end

