-- ==== Sys2Proof/Machine/Operands.lean ====
section
/-! DEFINITION. The operands of the operations: the text `TXT[0:TXT_LEN)`, the image `IMG[0:IMG_LEN)`, and the fields of
the 24-bit access string. -/

namespace Sys2Proof.Machine

/-- The byte of `TXT` at an address: what the host last wrote, else the unspecified content of the cell (R73, U2). -/
def State.txtByte (s : State) (a : Nat) : Byte :=
  (Memory.read .txt s.txt a).getD (Config.txtUnspecified s.txtEpoch a)

/-- The byte of `IMG` at an address, as an operation reads it (R42). -/
def State.imgByte (s : State) (a : Nat) : Byte := (Memory.read .img s.img a).getD 0

/-- The byte of `SEC` at an address (R43). -/
def State.secByte (s : State) (a : Nat) : Byte := (Memory.read .sec s.sec a).getD 0

/-- The operand of `PARSE` and `DECODE`: `TXT[0:TXT_LEN)` (R25, R130). -/
def State.text (s : State) : List Byte := (List.range s.txtLen.toNat).map s.txtByte

/-- The operand of `RESOLVE`: `IMG[0:IMG_LEN)` (R195). -/
def State.image (s : State) : List Byte := (List.range s.imgLen.toNat).map s.imgByte

/-- The bits of a byte, most significant first (R65). -/
def bitsMsbFirst (b : Byte) : List Bool := [7, 6, 5, 4, 3, 2, 1, 0].map b.getLsbD

/-- `BS24(b0, b1, b2)`: string position `p` holds bit `7 - (p mod 8)` of byte `b[p div 8]` (R8). -/
def bs24 (b0 b1 b2 : Byte) : List Bool := bitsMsbFirst b0 ++ bitsMsbFirst b1 ++ bitsMsbFirst b2

/-- The slice `S[a : a+3)` as a number, position `a` most significant (R8, R182). -/
def slice3 (S : List Bool) (a : Nat) : BitVec 3 :=
  BitVec.ofBool (S.getD a false) ++ BitVec.ofBool (S.getD (a + 1) false) ++ BitVec.ofBool (S.getD (a + 2) false)

/-- The first string position of a field: read `[0:3)`, write `[3:6)`, increment/decrement `[6:9)` (R102). -/
def fieldStart : AccField → Nat
  | .read => 0
  | .write => 3
  | .incDec => 6

/-- The pattern a field of the access string holds (R181). -/
def accField (f : AccField) (b0 b1 b2 : Byte) : BitVec 3 := slice3 (bs24 b0 b1 b2) (fieldStart f)

end Sys2Proof.Machine
end

