-- ==== Sys2Proof/Machine/Checksum.lean ====
section
/-! DEFINITION. ChecksumValidator (41_checksumvalidator.md): the function `Validate` and the command `VALIDATE`. -/

namespace Sys2Proof.Machine

/-- The expected check byte: the XOR of the four UID bytes (R161). -/
def expectedBcc (u0 u1 u2 u3 : Byte) : Byte := u0 ^^^ u1 ^^^ u2 ^^^ u3

/-- `Validate(uid, checkByte)` gives `(valid, expected)` (R161). -/
def validate (u0 u1 u2 u3 chk : Byte) : Bool × Byte :=
  (expectedBcc u0 u1 u2 u3 == chk, expectedBcc u0 u1 u2 u3)

/-- `VALIDATE` (R160, R163). -/
def execValidate (s : State) : Host.Outcome State Fault Refusal :=
  let r := validate s.arg.a0 s.arg.a1 s.arg.a2 s.arg.a3 s.arg.a4
  .next (s.leafResult (boolByte r.1) r.2 0)

end Sys2Proof.Machine
end

