-- ==== Sys2Proof/Machine/Manufacturer.lean ====
section
/-! DEFINITION. ManufacturerRegistry (42_manufacturerregistry.md): the constant table `MFR_TABLE`, the functions `MfrId`
and `MfrName`, the command `LOOKUP`, and the 37 MFRCODE rows of the opcode table. The meaning of a row is the look-up of
its code: the whole effect of R174 with the row's entry number, whatever `ARG[0]` holds (log entry 1). That `LOOKUP` is
the row that `ARG[0]` selects is a statement (LookupRunsTheRowOfItsOperand). -/

namespace Sys2Proof.Machine

/-- `MFR_TABLE`, rows 0 to 35, code and name (R172). -/
def mfrTable : List (Byte × String) :=
  [(0x00, "Unknown or Reserved"),
   (0x04, "NXP Semiconductors"),
   (0x05, "Mikron"),
   (0x07, "Infineon Technologies"),
   (0x0A, "Atmel"),
   (0x0B, "SLE (Siemens/Infineon)"),
   (0x0C, "HITAG (Philips/NXP)"),
   (0x0F, "NXP (former Philips Semiconductors)"),
   (0x11, "STMicroelectronics"),
   (0x13, "Toshiba"),
   (0x1F, "Broadcom"),
   (0x2B, "Intel Corporation"),
   (0x2E, "Sony Corporation"),
   (0x39, "Motorola"),
   (0x3F, "Microchip Technology"),
   (0x41, "ASK (Amplitude Shift Keying)"),
   (0x43, "Melexis"),
   (0x4A, "EM Microelectronic-Marin SA"),
   (0x4D, "Micron"),
   (0x55, "Magellan Technology"),
   (0x6A, "Samsung"),
   (0x7C, "Toshiba"),
   (0x88, "Shanghai Fudan Microelectronics"),
   (0x8A, "Texas Instruments"),
   (0xA0, "EMVCo (Payment Systems)"),
   (0xA1, "LEGIC Identsystems AG"),
   (0xB0, "Giesecke+Devrient"),
   (0xB3, "Samsung Electronics"),
   (0xC0, "RFID Components"),
   (0xC1, "Silicon Craft Technology"),
   (0xC2, "Zilog"),
   (0xD2, "Shanghai Huahong Integrated Circuit"),
   (0xE0, "SMARTRAC (now Avery Dennison RFID)"),
   (0xE1, "TagSys"),
   (0xF0, "Feitian Technologies"),
   (0xFF, "Test Manufacturer/Custom Chip")]

/-- The entry number of "Unknown Manufacturer", the default, which is not a row (R171). -/
def mfrUnknown : Nat := 36

/-- The number of the first row with a code, counted from `i`; the default when no row has it. -/
def mfrIdFrom (code : Byte) : Nat → List (Byte × String) → Nat
  | _, [] => mfrUnknown
  | i, row :: rows => if row.1 = code then i else mfrIdFrom code (i + 1) rows

/-- `MfrId(code)` (R171). -/
def mfrId (code : Byte) : Nat := mfrIdFrom code 0 mfrTable

/-- The name of an entry number: the row's name, or the default for the number that is no row (R34, R171). -/
def mfrEntryName (entry : Nat) : String :=
  match mfrTable[entry]? with
  | some row => row.2
  | none => "Unknown Manufacturer"

/-- `MfrName(code)`, the document's contract, evaluated by the host from the entry number (R171, R34). -/
def mfrName (code : Byte) : String := mfrEntryName (mfrId code)

/-- The whole look-up operation with the entry number found (R174). -/
def State.lookupEntry (entry : Nat) (s : State) : State := s.leafResult (.ofNat 8 entry) 0 0

/-- `LOOKUP` (R170, R174). -/
def execLookup (s : State) : Host.Outcome State Fault Refusal := .next (s.lookupEntry (mfrId s.arg.a0))

/-- MFR.00: code 0x00 is entry 0, Unknown or Reserved (R172). -/
def execMfr00 (s : State) : Host.Outcome State Fault Refusal := .next (s.lookupEntry 0)

/-- MFR.04: code 0x04 is entry 1, NXP Semiconductors (R172). -/
def execMfr04 (s : State) : Host.Outcome State Fault Refusal := .next (s.lookupEntry 1)

/-- MFR.05: code 0x05 is entry 2, Mikron (R172). -/
def execMfr05 (s : State) : Host.Outcome State Fault Refusal := .next (s.lookupEntry 2)

/-- MFR.07: code 0x07 is entry 3, Infineon Technologies (R172). -/
def execMfr07 (s : State) : Host.Outcome State Fault Refusal := .next (s.lookupEntry 3)

/-- MFR.0A: code 0x0A is entry 4, Atmel (R172). -/
def execMfr0A (s : State) : Host.Outcome State Fault Refusal := .next (s.lookupEntry 4)

/-- MFR.0B: code 0x0B is entry 5, SLE (Siemens/Infineon) (R172). -/
def execMfr0B (s : State) : Host.Outcome State Fault Refusal := .next (s.lookupEntry 5)

/-- MFR.0C: code 0x0C is entry 6, HITAG (Philips/NXP) (R172). -/
def execMfr0C (s : State) : Host.Outcome State Fault Refusal := .next (s.lookupEntry 6)

/-- MFR.0F: code 0x0F is entry 7, NXP (former Philips Semiconductors) (R172). -/
def execMfr0F (s : State) : Host.Outcome State Fault Refusal := .next (s.lookupEntry 7)

/-- MFR.11: code 0x11 is entry 8, STMicroelectronics (R172). -/
def execMfr11 (s : State) : Host.Outcome State Fault Refusal := .next (s.lookupEntry 8)

/-- MFR.13: code 0x13 is entry 9, Toshiba (R172). -/
def execMfr13 (s : State) : Host.Outcome State Fault Refusal := .next (s.lookupEntry 9)

/-- MFR.1F: code 0x1F is entry 10, Broadcom (R172). -/
def execMfr1F (s : State) : Host.Outcome State Fault Refusal := .next (s.lookupEntry 10)

/-- MFR.2B: code 0x2B is entry 11, Intel Corporation (R172). -/
def execMfr2B (s : State) : Host.Outcome State Fault Refusal := .next (s.lookupEntry 11)

/-- MFR.2E: code 0x2E is entry 12, Sony Corporation (R172). -/
def execMfr2E (s : State) : Host.Outcome State Fault Refusal := .next (s.lookupEntry 12)

/-- MFR.39: code 0x39 is entry 13, Motorola (R172). -/
def execMfr39 (s : State) : Host.Outcome State Fault Refusal := .next (s.lookupEntry 13)

/-- MFR.3F: code 0x3F is entry 14, Microchip Technology (R172). -/
def execMfr3F (s : State) : Host.Outcome State Fault Refusal := .next (s.lookupEntry 14)

/-- MFR.41: code 0x41 is entry 15, ASK (Amplitude Shift Keying) (R172). -/
def execMfr41 (s : State) : Host.Outcome State Fault Refusal := .next (s.lookupEntry 15)

/-- MFR.43: code 0x43 is entry 16, Melexis (R172). -/
def execMfr43 (s : State) : Host.Outcome State Fault Refusal := .next (s.lookupEntry 16)

/-- MFR.4A: code 0x4A is entry 17, EM Microelectronic-Marin SA (R172). -/
def execMfr4A (s : State) : Host.Outcome State Fault Refusal := .next (s.lookupEntry 17)

/-- MFR.4D: code 0x4D is entry 18, Micron (R172). -/
def execMfr4D (s : State) : Host.Outcome State Fault Refusal := .next (s.lookupEntry 18)

/-- MFR.55: code 0x55 is entry 19, Magellan Technology (R172). -/
def execMfr55 (s : State) : Host.Outcome State Fault Refusal := .next (s.lookupEntry 19)

/-- MFR.6A: code 0x6A is entry 20, Samsung (R172). -/
def execMfr6A (s : State) : Host.Outcome State Fault Refusal := .next (s.lookupEntry 20)

/-- MFR.7C: code 0x7C is entry 21, Toshiba (R172). -/
def execMfr7C (s : State) : Host.Outcome State Fault Refusal := .next (s.lookupEntry 21)

/-- MFR.88: code 0x88 is entry 22, Shanghai Fudan Microelectronics (R172). -/
def execMfr88 (s : State) : Host.Outcome State Fault Refusal := .next (s.lookupEntry 22)

/-- MFR.8A: code 0x8A is entry 23, Texas Instruments (R172). -/
def execMfr8A (s : State) : Host.Outcome State Fault Refusal := .next (s.lookupEntry 23)

/-- MFR.A0: code 0xA0 is entry 24, EMVCo (Payment Systems) (R172). -/
def execMfrA0 (s : State) : Host.Outcome State Fault Refusal := .next (s.lookupEntry 24)

/-- MFR.A1: code 0xA1 is entry 25, LEGIC Identsystems AG (R172). -/
def execMfrA1 (s : State) : Host.Outcome State Fault Refusal := .next (s.lookupEntry 25)

/-- MFR.B0: code 0xB0 is entry 26, Giesecke+Devrient (R172). -/
def execMfrB0 (s : State) : Host.Outcome State Fault Refusal := .next (s.lookupEntry 26)

/-- MFR.B3: code 0xB3 is entry 27, Samsung Electronics (R172). -/
def execMfrB3 (s : State) : Host.Outcome State Fault Refusal := .next (s.lookupEntry 27)

/-- MFR.C0: code 0xC0 is entry 28, RFID Components (R172). -/
def execMfrC0 (s : State) : Host.Outcome State Fault Refusal := .next (s.lookupEntry 28)

/-- MFR.C1: code 0xC1 is entry 29, Silicon Craft Technology (R172). -/
def execMfrC1 (s : State) : Host.Outcome State Fault Refusal := .next (s.lookupEntry 29)

/-- MFR.C2: code 0xC2 is entry 30, Zilog (R172). -/
def execMfrC2 (s : State) : Host.Outcome State Fault Refusal := .next (s.lookupEntry 30)

/-- MFR.D2: code 0xD2 is entry 31, Shanghai Huahong Integrated Circuit (R172). -/
def execMfrD2 (s : State) : Host.Outcome State Fault Refusal := .next (s.lookupEntry 31)

/-- MFR.E0: code 0xE0 is entry 32, SMARTRAC (now Avery Dennison RFID) (R172). -/
def execMfrE0 (s : State) : Host.Outcome State Fault Refusal := .next (s.lookupEntry 32)

/-- MFR.E1: code 0xE1 is entry 33, TagSys (R172). -/
def execMfrE1 (s : State) : Host.Outcome State Fault Refusal := .next (s.lookupEntry 33)

/-- MFR.F0: code 0xF0 is entry 34, Feitian Technologies (R172). -/
def execMfrF0 (s : State) : Host.Outcome State Fault Refusal := .next (s.lookupEntry 34)

/-- MFR.FF: code 0xFF is entry 35, Test Manufacturer/Custom Chip (R172). -/
def execMfrFF (s : State) : Host.Outcome State Fault Refusal := .next (s.lookupEntry 35)

/-- MFR.DEFAULT: every code without a row is entry 36, Unknown Manufacturer (R171, R172). -/
def execMfrDefault (_code : Byte) (s : State) : Host.Outcome State Fault Refusal := .next (s.lookupEntry mfrUnknown)

end Sys2Proof.Machine
end

