-- ==== Sys2Proof/Machine/Parse.lean ====
section
/-! DEFINITION. HexBlockParser (40_hexblockparser.md): the function `Parse(T)` and the command `PARSE`. `parse` follows
the text's own structure, lines, then tokens (R91 to R97), and carries the offsets of R131 along; the loops of R131 as
they are written stand in Machine/ParseLoops.lean. -/

namespace Sys2Proof.Machine

/-- The line terminator LF (R91). -/
def chLf : Byte := 0x0A
/-- The colon (R93). -/
def chColon : Byte := 0x3A
/-- The token separator, space (R95). -/
def chSpace : Byte := 0x20
/-- The five bytes of "Block" (R92). -/
def blockWord : List Byte := [0x42, 0x6C, 0x6F, 0x63, 0x6B]

/-- The whitespace bytes TAB, LF, VT, FF, CR and space (R94). -/
def isWs (x : Byte) : Bool :=
  x == 0x09 || x == 0x0A || x == 0x0B || x == 0x0C || x == 0x0D || x == 0x20

/-- The value of a hex digit, none for every other byte (R97). -/
def digit? (x : Byte) : Option Nat :=
  if 0x30 ≤ x.toNat ∧ x.toNat ≤ 0x39 then some (x.toNat - 0x30)
  else if 0x41 ≤ x.toNat ∧ x.toNat ≤ 0x46 then some (x.toNat - 0x37)
  else if 0x61 ≤ x.toNat ∧ x.toNat ≤ 0x66 then some (x.toNat - 0x57)
  else none

/-- The value of a token of one or two hex digits, the left one the high nibble; none for every other token (R63, R96). -/
def tokenValue? : List Byte → Option Byte
  | [a] => (digit? a).map (fun x => .ofNat 8 x)
  | [a, b] =>
      match digit? a, digit? b with
      | some x, some y => some (.ofNat 8 (16 * x + y))
      | _, _ => none
  | _ => none

/-- Cut a sequence at every byte equal to `sep`: `k` separators give `k + 1` pieces (R91, R95). -/
def splitOn (sep : Byte) : List Byte → List (List Byte)
  | [] => [[]]
  | x :: xs =>
      if x = sep then [] :: splitOn sep xs
      else match splitOn sep xs with
        | [] => [[x]]
        | piece :: more => (x :: piece) :: more

/-- Whether a line is a Block line: "decided by its first five bytes alone" (R92). -/
def isBlockLine (line : List Byte) : Bool := line.take 5 == blockWord

/-- Remove every trailing whitespace byte (R94). -/
def trimRight (bytes : List Byte) : List Byte := (bytes.reverse.dropWhile isWs).reverse

/-- The values of the tokens of a line from left to right; the first invalid token ends the parse (R136 to R138). `t` is
the `TXT` offset of the first token. -/
def scanTokens (line : Nat) : Nat → List (List Byte) → Except FormatError (List Byte)
  | _, [] => .ok []
  | t, tok :: more =>
      match tokenValue? tok with
      | none => .error (.invalidHexToken line t tok.length)
      | some v =>
          match scanTokens line (t + tok.length + 1) more with
          | .error e => .error e
          | .ok vs => .ok (v :: vs)

/-- The bytes of one line whose first byte has the `TXT` offset `p`: nothing for an other line, the payload's tokens for
a Block line, and `InvalidHexToken(line, e, 0)` for a Block line without a colon (R133 to R135). -/
def scanLine (line p : Nat) (bytes : List Byte) : Except FormatError (List Byte) :=
  if isBlockLine bytes then
    match bytes.findIdx? (· == chColon) with
    | none => .error (.invalidHexToken line (p + bytes.length) 0)
    | some c =>
        let raw := bytes.drop (c + 1)
        let lo := p + c + 1 + (raw.takeWhile isWs).length
        scanTokens line lo (splitOn chSpace (trimRight (raw.dropWhile isWs)))
  else .ok []

/-- The bytes of all lines in order (R132, R138); `line` and `p` are the number and the `TXT` offset of the first. -/
def scanLines : Nat → Nat → List (List Byte) → Except FormatError (List Byte)
  | _, _, [] => .ok []
  | line, p, bytes :: more =>
      match scanLine line p bytes with
      | .error e => .error e
      | .ok vs =>
          match scanLines (line + 1) (p + bytes.length + 1) more with
          | .error e => .error e
          | .ok ws => .ok (vs ++ ws)

/-- `Parse(T)` (R131): the image, of at least one byte, or the first error; `NoBlockData` only after a complete scan
(R139, R140). -/
def parse (T : List Byte) : Except FormatError (List Byte) :=
  match scanLines 1 0 (splitOn chLf T) with
  | .error e => .error e
  | .ok [] => .error .noBlockData
  | .ok (v :: vs) => .ok (v :: vs)

/-- `PARSE` (R130, R141). -/
def execParse (s : State) : Host.Outcome State Fault Refusal :=
  match parse s.text with
  | .ok image => .next (s.startImage.storeImage image).markDone
  | .error e => .next (s.startImage.raise e)

end Sys2Proof.Machine
end

