-- ==== Sys2Proof/Machine/AccessBits.lean ====
section
/-! DEFINITION. AccessBitsDecoder (43_accessbitsdecoder.md): the constant table `TIER`, the function `AccDec`, the command
`ACCDEC`, and the 8 ACCFIELD rows of the opcode table. The meaning of a row is the decoding of an access string whose
field `f` holds the row's pattern: the whole effect of R186 with the row's tier for that field, the two other fields
decoded from `ARG` (log entry 1). That `ACCDEC` is the row that a field of `ARG` selects is a statement
(AccdecRunsTheRowOfEachField). Not the card's real encoding, by order of the document (R187). -/

namespace Sys2Proof.Machine

/-- `TIER`, indexed by field value (R183). -/
def tierOf (p : BitVec 3) : Tier :=
  match p.toNat with
  | 0 => .noAccess
  | 1 => .always
  | 2 => .keyA
  | 3 => .keyB
  | 4 => .noAuth
  | 5 => .either
  | _ => .invalid

/-- The document's AccessConditions (R49, R181). -/
structure AccessConditions where
  rd : Tier
  wr : Tier
  id : Tier
deriving DecidableEq, Repr

/-- `AccDec(b0, b1, b2)` (R181). -/
def accDec (b0 b1 b2 : Byte) : AccessConditions where
  rd := tierOf (accField .read b0 b1 b2)
  wr := tierOf (accField .write b0 b1 b2)
  id := tierOf (accField .incDec b0 b1 b2)

/-- The conditions with the tier of one field replaced. -/
def AccessConditions.set (f : AccField) (t : Tier) (c : AccessConditions) : AccessConditions :=
  match f with
  | .read => { c with rd := t }
  | .write => { c with wr := t }
  | .incDec => { c with id := t }

/-- The access conditions of the operands `ARG[0..2]` (R180). -/
def State.argConditions (s : State) : AccessConditions := accDec s.arg.a0 s.arg.a1 s.arg.a2

/-- The whole decode operation with the conditions found (R186). -/
def State.accResult (c : AccessConditions) (s : State) : State := s.leafResult c.rd.code c.wr.code c.id.code

/-- The decode operation with the field `f` at the tier `t`, the two other fields as `ARG` holds them. -/
def State.accFieldResult (f : AccField) (t : Tier) (s : State) : State := s.accResult (s.argConditions.set f t)

/-- `ACCDEC` (R180, R186). -/
def execAccdec (s : State) : Host.Outcome State Fault Refusal := .next (s.accResult s.argConditions)

/-- TIER.NOACCESS.000: the pattern `000` is tier 0 (R183). -/
def execTierNoAccess000 (f : AccField) (s : State) : Host.Outcome State Fault Refusal :=
  .next (s.accFieldResult f .noAccess)

/-- TIER.ALWAYS.001: the pattern `001` is tier 1 (R183). -/
def execTierAlways001 (f : AccField) (s : State) : Host.Outcome State Fault Refusal :=
  .next (s.accFieldResult f .always)

/-- TIER.KEYA.010: the pattern `010` is tier 2 (R183). -/
def execTierKeya010 (f : AccField) (s : State) : Host.Outcome State Fault Refusal :=
  .next (s.accFieldResult f .keyA)

/-- TIER.KEYB.011: the pattern `011` is tier 3 (R183). -/
def execTierKeyb011 (f : AccField) (s : State) : Host.Outcome State Fault Refusal :=
  .next (s.accFieldResult f .keyB)

/-- TIER.NOAUTH.100: the pattern `100` is tier 4 (R183). -/
def execTierNoauth100 (f : AccField) (s : State) : Host.Outcome State Fault Refusal :=
  .next (s.accFieldResult f .noAuth)

/-- TIER.EITHER.101: the pattern `101` is tier 5 (R183). -/
def execTierEither101 (f : AccField) (s : State) : Host.Outcome State Fault Refusal :=
  .next (s.accFieldResult f .either)

/-- TIER.INVALID.110: the pattern `110` is tier 6 (R183). -/
def execTierInvalid110 (f : AccField) (s : State) : Host.Outcome State Fault Refusal :=
  .next (s.accFieldResult f .invalid)

/-- TIER.INVALID.111: the pattern `111` is tier 6 (R183). -/
def execTierInvalid111 (f : AccField) (s : State) : Host.Outcome State Fault Refusal :=
  .next (s.accFieldResult f .invalid)

end Sys2Proof.Machine
end

