-- ==== Sys2Proof/Machine/SectorLayout.lean ====
section
/-! DEFINITION. SectorLayoutResolver (44_sectorlayoutresolver.md): `Partition`, `Trailer`, `Resolve`, the writing of the
sector table (R43) and the command `RESOLVE`. -/

namespace Sys2Proof.Machine

/-- A tuple `(s, first, nb, tb)` of `Partition`: sector index, first block, number of blocks, trailer block (R200). -/
structure SectorSpan where
  s : Nat
  first : Nat
  nb : Nat
  tb : Nat
deriving DecidableEq, Repr

/-- The blocks of the sector with index `s` (R200). -/
def sectorBlocks (s : Nat) : Nat := if s < Config.smallSectors then Config.smallSectorBlocks else Config.bigSectorBlocks

/-- The loop of `Partition(N)` from sector index `s` and block cursor `c`; the first argument after `N` counts the sector
indices left below 40, so that 0 is the exit `s >= 40` (R200). -/
def partitionFrom (N : Nat) : Nat → Nat → Nat → List SectorSpan
  | 0, _, _ => []
  | left + 1, s, c =>
      if c ≥ N then []
      else if N - c < sectorBlocks s then []
      else ⟨s, c, sectorBlocks s, c + sectorBlocks s - 1⟩ :: partitionFrom N left (s + 1) (c + sectorBlocks s)

/-- `Partition(N)` (R200). -/
def sectorPartition (N : Nat) : List SectorSpan := partitionFrom N Config.maxSectors 0 0

/-- The document's SectorTrailer (R49, R203). -/
structure SectorTrailer where
  sectorIndex : Nat
  keyA : List Byte
  acc0 : Byte
  acc1 : Byte
  acc2 : Byte
  rsv : Byte
  keyB : List Byte
  conditions : AccessConditions
deriving DecidableEq, Repr

/-- `I[k]`. -/
def byteAt (I : List Byte) (k : Nat) : Byte := I.getD k 0

/-- `I[a : a+n)` as a sequence of `n` bytes (R9). -/
def bytesAt (I : List Byte) (a n : Nat) : List Byte := (List.range n).map (fun k => byteAt I (a + k))

/-- `Trailer(I, s, tb)` (R203). -/
def trailer (I : List Byte) (s tb : Nat) : SectorTrailer :=
  let base := Config.blockBytes * tb
  { sectorIndex := s
    keyA := bytesAt I base 6
    acc0 := byteAt I (base + 6)
    acc1 := byteAt I (base + 7)
    acc2 := byteAt I (base + 8)
    rsv := byteAt I (base + 9)
    keyB := bytesAt I (base + 10) 6
    conditions := accDec (byteAt I (base + 6)) (byteAt I (base + 7)) (byteAt I (base + 8)) }

/-- A resolved layout: the total block count and one trailer per sector in ascending order (R196). -/
structure CardLayout where
  blocks : Nat
  sectors : List SectorTrailer
deriving DecidableEq, Repr

/-- `Resolve(I)` (R196): alignment first (R197), then geometry (R198), then the partition. -/
def resolve (I : List Byte) : Except FormatError CardLayout :=
  if I.length % Config.blockBytes ≠ 0 then .error .misalignedImage
  else
    let N := I.length / Config.blockBytes
    if N ≠ 64 ∧ N ≠ 256 then .error .unsupportedCardSize
    else .ok ⟨N, (sectorPartition N).map (fun x => trailer I x.s x.tb)⟩

/-- The 19 written bytes of an entry of `SEC`, offsets 0 to 18 (R43): the 16 trailer bytes and the three tiers. -/
def SectorTrailer.bytes (x : SectorTrailer) : List Byte :=
  x.keyA ++ [x.acc0, x.acc1, x.acc2] ++ [x.rsv] ++ x.keyB ++
    [x.conditions.rd.code, x.conditions.wr.code, x.conditions.id.code]

/-- The `MemWrite`s of one entry, at `SEC` address `32*s` (R210). -/
def writeEntry (sec : Memory) (x : SectorTrailer) : Memory :=
  Memory.writeRange .sec sec (32 * x.sectorIndex) x.bytes

/-- The success case of R210: `SEC`, `SEC_COUNT`, `GEOM`, `LAY_VALID`. -/
def State.storeLayout (lay : CardLayout) (s : State) : State :=
  { s with
    status := { s.status with layValid := true }
    geom := if lay.blocks = 64 then .k1 else .k4
    secCount := .ofNat 6 lay.sectors.length
    sec := lay.sectors.foldl writeEntry s.sec }

/-- `RESOLVE` (R195, R209, R210). -/
def execResolve (s : State) : Host.Outcome State Fault Refusal :=
  match resolve s.image with
  | .ok lay => .next (s.startLayout.storeLayout lay).markDone
  | .error e => .next (s.startLayout.raise e)

end Sys2Proof.Machine
end

