-- ==== Sys2Proof/Machine/CardImage.lean ====
section
/-! DEFINITION. CardImageDecoder (45_cardimagedecoder.md): the pipeline `Decode` and the command `DECODE`. -/

namespace Sys2Proof.Machine

/-- The production year, `2000 +` the high nibble (R35, R225). -/
def productionYear (yw : Byte) : Nat := Config.yearBase + yw.toNat / 16

/-- The production week, the low nibble, passed through unvalidated (R36, R225). -/
def productionWeek (yw : Byte) : Nat := yw.toNat % 16

/-- Stages 3 and 4 of the pipeline: the block-0 fields of bytes 0 to 6 and the leaf units on them (R221, R223, R224), as
the registers hold them (R226). -/
def block0Of (I : List Byte) : Block0Regs :=
  let v := validate (byteAt I 0) (byteAt I 1) (byteAt I 2) (byteAt I 3) (byteAt I 4)
  { uid0 := byteAt I 0
    uid1 := byteAt I 1
    uid2 := byteAt I 2
    uid3 := byteAt I 3
    bcc := byteAt I 4
    bccExp := v.2
    bccOk := v.1
    mfrCode := byteAt I 5
    mfrId := .ofNat 6 (mfrId (byteAt I 5))
    year := .ofNat 16 (productionYear (byteAt I 6))
    week := .ofNat 4 (productionWeek (byteAt I 6)) }

/-- The document's DecodedCard (R49). -/
structure DecodedCard where
  block0 : Block0Regs
  layout : CardLayout
deriving DecidableEq, Repr

/-- What the pipeline gives: a decoded card or the first error, and the image when the parse stage succeeded (R221). -/
structure DecodeResult where
  result : Except FormatError DecodedCard
  image : Option (List Byte)

/-- Stages 2 to 5 of `Decode` on a parsed image (R221): the length check, block 0 and the leaf units, the layout. -/
def decodeImage (I : List Byte) : Except FormatError DecodedCard :=
  if I.length < 16 then .error .tooShortForBlock0
  else match resolve I with
    | .error e => .error e
    | .ok lay => .ok ⟨block0Of I, lay⟩

/-- `Decode(T)` (R221). -/
def decodeText (T : List Byte) : DecodeResult :=
  match parse T with
  | .error e => ⟨.error e, none⟩
  | .ok I => ⟨decodeImage I, some I⟩

/-- `if img is an image I: MemWrite(IMG, 0, len(I), I); IMG_LEN <- len(I); IMG_VALID <- 1` (R228). -/
def State.storeImageIf (image : Option (List Byte)) (s : State) : State :=
  match image with
  | some I => s.storeImage I
  | none => s

/-- `DECODE` (R220, R228). -/
def execDecode (s : State) : Host.Outcome State Fault Refusal :=
  let r := decodeText s.text
  let s1 := s.startImage.storeImageIf r.image
  match r.result with
  | .ok card => .next ((s1.storeBlock0 card.block0).storeLayout card.layout).markDone
  | .error e => .next (s1.raise e)

end Sys2Proof.Machine
end

