-- ==== Sys2Proof/Machine/Control.lean ====
section
/-! DEFINITION. The commands without a unit of their own (45_cardimagedecoder.md): `CLEAR` and the illegal command words;
and the five ERRCODE rows of the opcode table, whose meaning is the raise of that error (R258). -/

namespace Sys2Proof.Machine

/-- `CLEAR` (R234): every register and every `SEC` byte at its reset value; the cells of `TXT` and `IMG` are not written.
The model's own fields are not touched. -/
def State.clearAll (s : State) : State :=
  { State.reset with
    txt := s.txt
    img := s.img
    txtMax := s.txtMax
    txtEpoch := s.txtEpoch
    pending := s.pending
    readData := s.readData }

/-- `CLEAR` (R234). -/
def execClear (s : State) : Host.Outcome State Fault Refusal := .next s.clearAll

/-- ILLEGAL.OPC7: the word 0x07 (R108, R236). -/
def execIllegalOpc7 (s : State) : Host.Outcome State Fault Refusal := .next s.setIllcmd

/-- ILLEGAL.BIT3: a word with bit 3 set (R108, R236); the operation code field is not looked at. -/
def execIllegalBit3 (_w : Byte) (s : State) : Host.Outcome State Fault Refusal := .next s.setIllcmd

/-- ILLEGAL.BIT4: a word with bit 4 set (R108, R236). -/
def execIllegalBit4 (_w : Byte) (s : State) : Host.Outcome State Fault Refusal := .next s.setIllcmd

/-- ILLEGAL.BIT5: a word with bit 5 set (R108, R236). -/
def execIllegalBit5 (_w : Byte) (s : State) : Host.Outcome State Fault Refusal := .next s.setIllcmd

/-- ILLEGAL.BIT6: a word with bit 6 set (R108, R236). -/
def execIllegalBit6 (_w : Byte) (s : State) : Host.Outcome State Fault Refusal := .next s.setIllcmd

/-- ILLEGAL.BIT7: a word with bit 7 set (R108, R236). -/
def execIllegalBit7 (_w : Byte) (s : State) : Host.Outcome State Fault Refusal := .next s.setIllcmd

/-- ERR.NoBlockData: the raise of error 1 (R251, R258). -/
def execErrNoBlockData (s : State) : Host.Outcome State Fault Refusal := .next (s.raise .noBlockData)

/-- ERR.InvalidHexToken: the raise of error 2 with its record (R252, R258). -/
def execErrInvalidHexToken (line off len : Word) (s : State) : Host.Outcome State Fault Refusal :=
  .next (s.raise (.invalidHexToken line.toNat off.toNat len.toNat))

/-- ERR.TooShortForBlock0: the raise of error 3 (R253, R258). -/
def execErrTooShortForBlock0 (s : State) : Host.Outcome State Fault Refusal := .next (s.raise .tooShortForBlock0)

/-- ERR.MisalignedImage: the raise of error 4 (R254, R258). -/
def execErrMisalignedImage (s : State) : Host.Outcome State Fault Refusal := .next (s.raise .misalignedImage)

/-- ERR.UnsupportedCardSize: the raise of error 5 (R255, R258). -/
def execErrUnsupportedCardSize (s : State) : Host.Outcome State Fault Refusal := .next (s.raise .unsupportedCardSize)

end Sys2Proof.Machine
end

