-- ==== Sys2Proof/Machine/Dispatch.lean ====
section
/-! DEFINITION. `exec`: one arm per constructor of `Instr`, each one direct call of a meaning. -/

namespace Sys2Proof.Machine

def exec (i : Instr) (s : State) : Host.Outcome State Fault Refusal :=
  match i with
  -- command words (R107)
  | .clear => Sys2Proof.Machine.execClear s
  | .parse => Sys2Proof.Machine.execParse s
  | .validate => Sys2Proof.Machine.execValidate s
  | .lookup => Sys2Proof.Machine.execLookup s
  | .accdec => Sys2Proof.Machine.execAccdec s
  | .resolve => Sys2Proof.Machine.execResolve s
  | .decode => Sys2Proof.Machine.execDecode s
  -- illegal command words (R108)
  | .illegalOpc7 => Sys2Proof.Machine.execIllegalOpc7 s
  | .illegalBit3 w => Sys2Proof.Machine.execIllegalBit3 w s
  | .illegalBit4 w => Sys2Proof.Machine.execIllegalBit4 w s
  | .illegalBit5 w => Sys2Proof.Machine.execIllegalBit5 w s
  | .illegalBit6 w => Sys2Proof.Machine.execIllegalBit6 w s
  | .illegalBit7 w => Sys2Proof.Machine.execIllegalBit7 w s
  -- patterns of an access field (R183)
  | .tierNoAccess000 f => Sys2Proof.Machine.execTierNoAccess000 f s
  | .tierAlways001 f => Sys2Proof.Machine.execTierAlways001 f s
  | .tierKeya010 f => Sys2Proof.Machine.execTierKeya010 f s
  | .tierKeyb011 f => Sys2Proof.Machine.execTierKeyb011 f s
  | .tierNoauth100 f => Sys2Proof.Machine.execTierNoauth100 f s
  | .tierEither101 f => Sys2Proof.Machine.execTierEither101 f s
  | .tierInvalid110 f => Sys2Proof.Machine.execTierInvalid110 f s
  | .tierInvalid111 f => Sys2Proof.Machine.execTierInvalid111 f s
  -- manufacturer codes (R172)
  | .mfr00 => Sys2Proof.Machine.execMfr00 s
  | .mfr04 => Sys2Proof.Machine.execMfr04 s
  | .mfr05 => Sys2Proof.Machine.execMfr05 s
  | .mfr07 => Sys2Proof.Machine.execMfr07 s
  | .mfr0A => Sys2Proof.Machine.execMfr0A s
  | .mfr0B => Sys2Proof.Machine.execMfr0B s
  | .mfr0C => Sys2Proof.Machine.execMfr0C s
  | .mfr0F => Sys2Proof.Machine.execMfr0F s
  | .mfr11 => Sys2Proof.Machine.execMfr11 s
  | .mfr13 => Sys2Proof.Machine.execMfr13 s
  | .mfr1F => Sys2Proof.Machine.execMfr1F s
  | .mfr2B => Sys2Proof.Machine.execMfr2B s
  | .mfr2E => Sys2Proof.Machine.execMfr2E s
  | .mfr39 => Sys2Proof.Machine.execMfr39 s
  | .mfr3F => Sys2Proof.Machine.execMfr3F s
  | .mfr41 => Sys2Proof.Machine.execMfr41 s
  | .mfr43 => Sys2Proof.Machine.execMfr43 s
  | .mfr4A => Sys2Proof.Machine.execMfr4A s
  | .mfr4D => Sys2Proof.Machine.execMfr4D s
  | .mfr55 => Sys2Proof.Machine.execMfr55 s
  | .mfr6A => Sys2Proof.Machine.execMfr6A s
  | .mfr7C => Sys2Proof.Machine.execMfr7C s
  | .mfr88 => Sys2Proof.Machine.execMfr88 s
  | .mfr8A => Sys2Proof.Machine.execMfr8A s
  | .mfrA0 => Sys2Proof.Machine.execMfrA0 s
  | .mfrA1 => Sys2Proof.Machine.execMfrA1 s
  | .mfrB0 => Sys2Proof.Machine.execMfrB0 s
  | .mfrB3 => Sys2Proof.Machine.execMfrB3 s
  | .mfrC0 => Sys2Proof.Machine.execMfrC0 s
  | .mfrC1 => Sys2Proof.Machine.execMfrC1 s
  | .mfrC2 => Sys2Proof.Machine.execMfrC2 s
  | .mfrD2 => Sys2Proof.Machine.execMfrD2 s
  | .mfrE0 => Sys2Proof.Machine.execMfrE0 s
  | .mfrE1 => Sys2Proof.Machine.execMfrE1 s
  | .mfrF0 => Sys2Proof.Machine.execMfrF0 s
  | .mfrFF => Sys2Proof.Machine.execMfrFF s
  | .mfrDefault code => Sys2Proof.Machine.execMfrDefault code s
  -- error codes (R250)
  | .errNoBlockData => Sys2Proof.Machine.execErrNoBlockData s
  | .errInvalidHexToken line off len => Sys2Proof.Machine.execErrInvalidHexToken line off len s
  | .errTooShortForBlock0 => Sys2Proof.Machine.execErrTooShortForBlock0 s
  | .errMisalignedImage => Sys2Proof.Machine.execErrMisalignedImage s
  | .errUnsupportedCardSize => Sys2Proof.Machine.execErrUnsupportedCardSize s

end Sys2Proof.Machine
end

