-- ==== Sys2Proof/Machine/Port.lean ====
section
/-! DEFINITION. The host access port (R12, R285): reading and writing an address of one of the four spaces, the register
map (R20), and the one write that starts an operation (R21). No access faults (R80). -/

namespace Sys2Proof.Machine

/-- A host read of a register, zero-extended to 32 bits (R20). `CMD` reads 0 (R21); 0x15 to 0x17 and every number above
0x1F are reserved and read 0 (R39). -/
def State.readReg (s : State) (a : Nat) : Word :=
  match a with
  | 0x01 => s.status.word.setWidth 32
  | 0x02 => s.err.code.toBits.setWidth 32
  | 0x03 => s.err.line
  | 0x04 => s.err.tokOff
  | 0x05 => s.err.tokLen
  | 0x06 => s.txtLen
  | 0x07 => s.imgLen
  | 0x08 => s.geom.toBits.setWidth 32
  | 0x09 => s.secCount.setWidth 32
  | 0x0A => s.b0.uid0.setWidth 32
  | 0x0B => s.b0.uid1.setWidth 32
  | 0x0C => s.b0.uid2.setWidth 32
  | 0x0D => s.b0.uid3.setWidth 32
  | 0x0E => s.b0.bcc.setWidth 32
  | 0x0F => s.b0.bccExp.setWidth 32
  | 0x10 => (BitVec.ofBool s.b0.bccOk).setWidth 32
  | 0x11 => s.b0.mfrCode.setWidth 32
  | 0x12 => s.b0.mfrId.setWidth 32
  | 0x13 => s.b0.year.setWidth 32
  | 0x14 => s.b0.week.setWidth 32
  | 0x18 => s.arg.a0.setWidth 32
  | 0x19 => s.arg.a1.setWidth 32
  | 0x1A => s.arg.a2.setWidth 32
  | 0x1B => s.arg.a3.setWidth 32
  | 0x1C => s.arg.a4.setWidth 32
  | 0x1D => s.res.r0.setWidth 32
  | 0x1E => s.res.r1.setWidth 32
  | 0x1F => s.res.r2.setWidth 32
  | _ => 0

/-- A host read of `TXT`: 0 at `a >= TXT_MAX`, else the cell (R73). -/
def State.readTxt (s : State) (a : Nat) : Byte := if a < s.txtMax then s.txtByte a else 0

/-- A host read of `IMG`, gated by `IMG_LEN` (R73). -/
def State.readImg (s : State) (a : Nat) : Byte := if a < s.imgLen.toNat then s.imgByte a else 0

/-- The number of byte addresses of `SEC`: 40 entries of 32 (R43, R60). -/
def secBytes : Nat := 1280

/-- A host read of `SEC`: 0 above 1279 (R73). -/
def State.readSec (s : State) (a : Nat) : Byte := if a < secBytes then s.secByte a else 0

/-- A host read of any address of any space. -/
def State.hostRead (s : State) (sp : Space) (a : Nat) : Word :=
  match sp with
  | .reg => s.readReg a
  | .txt => (s.readTxt a).setWidth 32
  | .img => (s.readImg a).setWidth 32
  | .sec => (s.readSec a).setWidth 32

/-- A host write to `TXT_LEN`: `v <= TXT_MAX` is stored, a greater value is ignored (R25). -/
def State.writeTxtLen (v : Word) (s : State) : State := if v.toNat ≤ s.txtMax then { s with txtLen := v } else s

/-- A host write to `TXT`: `TXT[a] <- v[7:0]` at `a < TXT_MAX`, else ignored (R74). -/
def State.writeTxt (a : Nat) (v : Byte) (s : State) : State :=
  if a < s.txtMax then { s with txt := Memory.write .txt s.txt a v } else s

/-- The command word of a write to `CMD`: the register is 8 bits wide, "upper bits are dropped" (R21, U13). -/
def cmdWord (v : Word) : Byte := v.setWidth 8

/-- A host write to a register. A write to `CMD` runs the whole operation that the word selects (R21, R285); `TXT_LEN` and
`ARG` are the other writable registers (R25, R37); a write to any other number is ignored (R39). -/
def State.writeReg (a : Nat) (v : Word) (s : State) : Host.Outcome State Fault Refusal :=
  match a with
  | 0x00 => exec (decodeCmd (cmdWord v)) s
  | 0x06 => .next (s.writeTxtLen v)
  | 0x18 => .next { s with arg := { s.arg with a0 := v.setWidth 8 } }
  | 0x19 => .next { s with arg := { s.arg with a1 := v.setWidth 8 } }
  | 0x1A => .next { s with arg := { s.arg with a2 := v.setWidth 8 } }
  | 0x1B => .next { s with arg := { s.arg with a3 := v.setWidth 8 } }
  | 0x1C => .next { s with arg := { s.arg with a4 := v.setWidth 8 } }
  | _ => .next s

/-- A host write to any address of any space; `IMG` and `SEC` ignore every write (R74). -/
def State.hostWrite (sp : Space) (a : Nat) (v : Word) (s : State) : Host.Outcome State Fault Refusal :=
  match sp with
  | .reg => s.writeReg a v
  | .txt => .next (s.writeTxt a (v.setWidth 8))
  | .img | .sec => .next s

/-- One host access (R285). A read returns its value on the port and changes nothing of the block (R72). -/
def State.access (x : HostAccess) (s : State) : Host.Outcome State Fault Refusal :=
  match x with
  | .reset => .next s.hostReset
  | .read sp a => .next { s with readData := s.hostRead sp a }
  | .write sp a v => s.hostWrite sp a v

/-- The next access of the host, taken from the accesses still to come; without one the block waits (R282). -/
def State.takeAccess (s : State) : Host.Outcome State Fault Refusal :=
  match s.pending with
  | [] => .next s
  | x :: rest => State.access x { s with pending := rest }

/-- The host access that presents a word of the opcode table to the block: the write of it to `CMD` (R21). -/
def cmdAccess (nbits w : Nat) : HostAccess := .write .reg 0x00 (.ofNat 32 (w % 2 ^ nbits))

end Sys2Proof.Machine
end

