-- ==== Sys2Proof/Machine/Step.lean ====
section
/-! DEFINITION. One step of the machine is one host access (R5, R285). -/

namespace Sys2Proof.Machine

/-- One step: the next host access takes effect, whole (R76, R286); without one the block waits (R282). -/
def step (s : State) : Host.Outcome State Fault Refusal := s.takeAccess

/-- The state whose next host access writes the word `w` to `CMD`; nothing else changes (log entry 5). -/
def State.withFetchWord (s : State) (nbits w : Nat) : State := { s with pending := cmdAccess nbits w :: s.pending }

end Sys2Proof.Machine
end

