-- ==== Sys2Proof/Machine/HostView.lean ====
section
/-! DEFINITION. What the spec fixes on the host's side of the port: the dump format (R92 to R96), the rendering of bytes
(R114), the texts of tier 4 (R104, R184), the document's data model read back from the registers (R49), and the notation of test
programs as lists of host accesses (R112, R113). The block itself uses none of it. -/

namespace Sys2Proof.Machine

/-- The upper-case hex digit of a value below 16: element of `D = "0123456789ABCDEF"` (R114). -/
def hexChar (n : Nat) : Byte := .ofNat 8 (if n < 10 then 0x30 + n else 0x37 + n)

/-- `HEX2(b)` (R114). -/
def hex2 (b : Byte) : List Byte := [hexChar (b.toNat / 16), hexChar (b.toNat % 16)]

/-- A byte group: `HEX2` of each byte, single spaces between, no trailing space (R114). -/
def hexGroup : List Byte → List Byte
  | [] => []
  | [b] => hex2 b
  | b :: b' :: bs => hex2 b ++ chSpace :: hexGroup (b' :: bs)

/-- A line of the dump format, without its terminator: "Block", the label, a colon, a space, the payload (R93). -/
def dumpLine (label bytes : List Byte) : List Byte := blockWord ++ label ++ chColon :: chSpace :: hexGroup bytes

/-- A dump: its lines, each ended by LF (R91). -/
def dumpText : List (List Byte × List Byte) → List Byte
  | [] => []
  | (label, bytes) :: more => dumpLine label bytes ++ chLf :: dumpText more

/-- The text of tier 4 for a field; the texts of the other tiers are not in the source (R104, N9). -/
def noAuthText : AccField → String
  | .read => "Read access without authentication"
  | .write => "Write access without authentication"
  | .incDec => "Increment/Decrement without authentication"

/-! The document's data model, built from the registers and memories as R49 maps it. A result is absent while its flag is
0, or where a code stands that no rule produces (U4). -/

/-- The document's ByteImage, when the block holds one (R49). -/
def State.byteImage (s : State) : Option (List Byte) := if s.status.imgValid then some s.image else none

/-- The document's Block0Info (R49). -/
structure Block0Info where
  uid : List Byte
  checkByte : Byte
  manufacturerCode : Byte
  productionYear : Nat
  productionWeek : Nat
  manufacturerName : String
  checksumValid : Bool
  /-- "present only when invalid" (R31) -/
  expectedCheckByte : Option Byte
deriving DecidableEq, Repr

/-- The Block0Info that the `B0_*` registers hold, one line of R49 per field; the name is that of entry `B0_MFR_ID`. -/
def Block0Regs.info (b : Block0Regs) : Block0Info where
  uid := [b.uid0, b.uid1, b.uid2, b.uid3]
  checkByte := b.bcc
  manufacturerCode := b.mfrCode
  productionYear := b.year.toNat
  productionWeek := b.week.toNat
  manufacturerName := mfrEntryName b.mfrId.toNat
  checksumValid := b.bccOk
  expectedCheckByte := if b.bccOk then none else some b.bccExp

/-- The document's Block0Info, when `B0_VALID = 1` (R22, R49). -/
def State.block0Info (s : State) : Option Block0Info := if s.status.b0Valid then some s.b0.info else none

/-- The document's `expectedCheckByte`, "present only when invalid" (R31). -/
def State.expectedCheckByte (s : State) : Option Byte := s.block0Info.bind (·.expectedCheckByte)

/-- The tier that a code stands for (R103); none for a code that is never produced. -/
def tierOfCode? (c : Byte) : Option Tier :=
  match c.toNat with
  | 0 => some .noAccess
  | 1 => some .always
  | 2 => some .keyA
  | 3 => some .keyB
  | 4 => some .noAuth
  | 5 => some .either
  | 6 => some .invalid
  | _ => none

/-- The byte at an offset of entry `k` of `SEC`, as the host reads it (R43). -/
def State.secField (s : State) (k j : Nat) : Byte := s.readSec (32 * k + j)

/-- A host-side copy of one entry of `SEC`: its 32 bytes (R43). -/
def State.secEntry (s : State) (k : Nat) : List Byte := (List.range 32).map (s.secField k)

/-- The document's AccessConditions of sector `k`: `RD`, `WR`, `ID` at offsets 16 to 18 (R49). -/
def State.accessConditions (s : State) (k : Nat) : Option AccessConditions :=
  match tierOfCode? (s.secField k 16), tierOfCode? (s.secField k 17), tierOfCode? (s.secField k 18) with
  | some rd, some wr, some id => some ⟨rd, wr, id⟩
  | _, _, _ => none

/-- The document's SectorTrailer of sector `k`: offsets 0 to 15 of the entry and its conditions (R49). -/
def State.sectorTrailer (s : State) (k : Nat) : Option SectorTrailer :=
  (s.accessConditions k).map fun c =>
    { sectorIndex := k
      keyA := (List.range 6).map (s.secField k)
      acc0 := s.secField k 6
      acc1 := s.secField k 7
      acc2 := s.secField k 8
      rsv := s.secField k 9
      keyB := (List.range 6).map (fun j => s.secField k (10 + j))
      conditions := c }

/-- A sequence of results that are all present. -/
def collect : List (Option α) → Option (List α)
  | [] => some []
  | x :: xs =>
      match x, collect xs with
      | some a, some as => some (a :: as)
      | _, _ => none

/-- The total block count of a geometry (R27). -/
def Geom.blocks : Geom → Nat
  | .none => 0
  | .k1 => 64
  | .k4 => 256

/-- The document's CardLayout: entries 0 to `SEC_COUNT - 1` in order, when `LAY_VALID = 1` (R49). -/
def State.cardLayout (s : State) : Option CardLayout :=
  if s.status.layValid then
    (collect ((List.range s.secCount.toNat).map s.sectorTrailer)).map (fun sectors => ⟨s.geom.blocks, sectors⟩)
  else none

/-- The document's DecodedCard: all `B0_*` registers (as Block0Info: `Block0Regs.info`) and the CardLayout, when
`B0_VALID = 1` (R49). -/
def State.decodedCard (s : State) : Option DecodedCard :=
  if s.status.b0Valid then s.cardLayout.map (fun lay => ⟨s.b0, lay⟩) else none

/-- The error that a record stands for, none for code 0 (R109). -/
def ErrRegs.formatError (r : ErrRegs) : Option FormatError :=
  match r.code with
  | .noError => none
  | .noBlockData => some .noBlockData
  | .invalidHexToken => some (.invalidHexToken r.line.toNat r.tokOff.toNat r.tokLen.toNat)
  | .tooShortForBlock0 => some .tooShortForBlock0
  | .misalignedImage => some .misalignedImage
  | .unsupportedCardSize => some .unsupportedCardSize

/-- The document's FormatError, when `ST = ERROR` (R49). -/
def State.formatError (s : State) : Option FormatError :=
  if s.status.st = .error then s.err.formatError else none

/-- The token that `InvalidHexToken` names: the host reads it from `TXT` (R24, D9). -/
def State.errorToken (s : State) : List Byte :=
  (List.range s.err.tokLen.toNat).map (fun j => s.readTxt (s.err.tokOff.toNat + j))

/-- `CMDW w` (R112). -/
def hostCmdw (w : Byte) : HostAccess := .write .reg 0x00 (w.setWidth 32)

/-- `SETARG i, v` (R112). -/
def hostSetarg (i : Nat) (v : Byte) : HostAccess := .write .reg (0x18 + i) (v.setWidth 32)

/-- `SETLEN n` (R112). -/
def hostSetlen (n : Nat) : HostAccess := .write .reg 0x06 (.ofNat 32 n)

/-- `POKE a, v` (R112). -/
def hostPoke (a : Nat) (v : Byte) : HostAccess := .write .txt a (v.setWidth 32)

/-- The `POKE`s of a text from an address on. -/
def hostPokes : Nat → List Byte → List HostAccess
  | _, [] => []
  | a, v :: vs => hostPoke a v :: hostPokes (a + 1) vs

/-- `LDTXT`: the bytes first, then the length, "so that TXT_LEN never covers unwritten cells" (R113). -/
def hostLdtxt (text : List Byte) : List HostAccess := hostPokes 0 text ++ [hostSetlen text.length]

/-- `SETUID a, b, c, d, k` (R113). -/
def hostSetuid (a b c d k : Byte) : List HostAccess :=
  [hostSetarg 0 a, hostSetarg 1 b, hostSetarg 2 c, hostSetarg 3 d, hostSetarg 4 k]

/-- `SETACC a, b, c` (R113). -/
def hostSetacc (a b c : Byte) : List HostAccess := [hostSetarg 0 a, hostSetarg 1 b, hostSetarg 2 c]

end Sys2Proof.Machine
end

