-- ==== Sys2Proof/Machine/ParseLoops.lean ====
section
/-! DEFINITION. `Parse(T)` once more, as the loops of R131 stand on the page: cursors `p`, `line`, `t`, `u`, `lo`, `hi`
over offsets of `T` (R45). No step uses it; that it gives what `parse` gives is a statement (ParseLoopsAgree). Each loop
runs on fuel, and the fuel given is the bound of R142: `n + 1` lines, `hi - lo + 1` tokens. -/

namespace Sys2Proof.Machine

/-- `T[i]`. -/
def textAt (T : List Byte) (i : Nat) : Byte := T.getD i 0

/-- `least i in [a, a + n) with T[i] = x`, by the number `n` of offsets still to try. -/
def leastFrom (T : List Byte) (x : Byte) : Nat → Nat → Option Nat
  | 0, _ => none
  | n + 1, a => if textAt T a = x then some a else leastFrom T x n (a + 1)

/-- `least i in [a, b) with T[i] = x, or none` (R10). -/
def least? (T : List Byte) (x : Byte) (a b : Nat) : Option Nat := leastFrom T x (b - a) a

/-- `while lo < e and isWS(T[lo]): lo <- lo + 1`, by the number of offsets still to try. -/
def trimLo (T : List Byte) : Nat → Nat → Nat
  | 0, lo => lo
  | n + 1, lo => if isWs (textAt T lo) then trimLo T n (lo + 1) else lo

/-- `while hi > lo and isWS(T[hi-1]): hi <- hi - 1`. -/
def trimHi (T : List Byte) (lo : Nat) : Nat → Nat
  | 0 => 0
  | hi + 1 => if hi + 1 > lo ∧ isWs (textAt T hi) = true then trimHi T lo hi else hi + 1

/-- `ValidToken(T, t, u)`. -/
def validToken (T : List Byte) (t u : Nat) : Bool :=
  (u - t == 1 && (digit? (textAt T t)).isSome) ||
  (u - t == 2 && (digit? (textAt T t)).isSome && (digit? (textAt T (t + 1))).isSome)

/-- `TokenValue(T, t, u)`, called on a valid token only. -/
def tokenValue (T : List Byte) (t u : Nat) : Byte :=
  if u - t = 1 then .ofNat 8 ((digit? (textAt T t)).getD 0)
  else .ofNat 8 (16 * (digit? (textAt T t)).getD 0 + (digit? (textAt T (t + 1))).getD 0)

/-- The inner loop: tokens of `T[t:hi)`. -/
def tokenLoop (T : List Byte) (line hi : Nat) : Nat → Nat → List Byte → Except FormatError (List Byte)
  | 0, _, image => .ok image
  | fuel + 1, t, image =>
      let u := (least? T chSpace t hi).getD hi
      if validToken T t u then
        let image := image ++ [tokenValue T t u]
        if u = hi then .ok image else tokenLoop T line hi fuel (u + 1) image
      else .error (.invalidHexToken line t (u - t))

/-- The body of the outer loop: one line `T[p:e)`. -/
def lineBody (T : List Byte) (line p e : Nat) (image : List Byte) : Except FormatError (List Byte) :=
  if e - p ≥ 5 ∧ (List.range 5).map (fun k => textAt T (p + k)) = blockWord then
    match least? T chColon p e with
    | none => .error (.invalidHexToken line e 0)
    | some c =>
        let lo := trimLo T (e - (c + 1)) (c + 1)
        let hi := trimHi T lo e
        tokenLoop T line hi (hi - lo + 1) lo image
  else .ok image

/-- The outer loop: one iteration per line. -/
def lineLoop (T : List Byte) : Nat → Nat → Nat → List Byte → Except FormatError (List Byte)
  | 0, _, _, image => .ok image
  | fuel + 1, line, p, image =>
      let e := (least? T chLf p T.length).getD T.length
      match lineBody T line p e image with
      | .error err => .error err
      | .ok image => if e = T.length then .ok image else lineLoop T fuel (line + 1) (e + 1) image

/-- `Parse(T)` as R131 writes it. -/
def parseLoops (T : List Byte) : Except FormatError (List Byte) :=
  match lineLoop T (T.length + 1) 1 0 [] with
  | .error e => .error e
  | .ok image => if image.length = 0 then .error .noBlockData else .ok image

end Sys2Proof.Machine
end

