-- ==== Sys2Proof/Safety.lean ====
section
/-! DEFINITION. What a good state is, in the terms the statements use: the invariants that R48 lists, the form of the
memories, and that the result registers describe the image they stand next to; and the closed forms of the spec's tables that
statements compare the machine with. -/

namespace Sys2Proof.Machine

/-- The invariants "that hold after reset and after every step" (R48, items 1 to 8), and the range of `TXT_MAX` (R6). -/
structure Inv (s : State) : Prop where
  /-- item 1 -/
  error_iff : s.status.st = .error ↔ s.err.code ≠ .noError
  /-- item 2 -/
  image_iff : s.status.imgValid = true ↔ 1 ≤ s.imgLen.toNat
  /-- item 3 -/
  layout_image : s.status.layValid = true → s.status.imgValid = true ∧ (s.imgLen.toNat = 1024 ∨ s.imgLen.toNat = 4096)
  /-- item 4 -/
  block0_layout : s.status.b0Valid = true → s.status.layValid = true
  /-- item 5 -/
  layout_geom : s.status.layValid = true ↔ s.geom ≠ .none
  /-- item 5 -/
  geom_count : s.geom ≠ .none ↔ s.secCount ≠ 0
  /-- item 5 -/
  geometry : (s.geom = .k1 ∧ s.secCount = 16 ∧ s.imgLen.toNat = 1024) ∨
    (s.geom = .k4 ∧ s.secCount = 40 ∧ s.imgLen.toNat = 4096) ∨ (s.geom = .none ∧ s.secCount = 0)
  /-- item 6 -/
  layout_sum : s.status.layValid = true →
    (((List.range s.secCount.toNat).map fun k => if k ≤ 31 then 4 else 16).sum) * 16 = s.imgLen.toNat
  /-- item 7 -/
  record_zero : s.err.code ≠ .invalidHexToken → s.err.line = 0 ∧ s.err.tokOff = 0 ∧ s.err.tokLen = 0
  /-- item 7 -/
  record_line : s.err.code = .invalidHexToken → 1 ≤ s.err.line.toNat
  /-- item 8 -/
  txtLen_le : s.txtLen.toNat ≤ s.txtMax
  /-- the parameter (R6) -/
  txtMax_range : Config.txtMaxLeast ≤ s.txtMax ∧ s.txtMax < 2 ^ 32

/-- The memories keep their canonical form and their extent: `TXT_MAX` bytes (R41), `IMG_CAP = floor(TXT_MAX / 2)` bytes
(R6, R42), 1280 bytes (R43); and the image does not overflow `IMG` (R81). -/
structure MemInv (s : State) : Prop where
  txt_wf : Memory.wf .txt s.txt
  img_wf : Memory.wf .img s.img
  sec_wf : Memory.wf .sec s.sec
  txt_below : Memory.below s.txt s.txtMax
  img_below : Memory.below s.img (s.txtMax / 2)
  sec_below : Memory.below s.sec secBytes
  imgLen_le : s.imgLen.toNat ≤ s.txtMax / 2

/-- The result registers describe the image in `IMG` while their flag is 1, and read 0 while it is 0 (R22, R24 to R38,
R290 item 4). -/
structure ResultInv (s : State) : Prop where
  block0_of_image : s.status.b0Valid = true → s.b0 = block0Of s.image
  block0_zero : s.status.b0Valid = false → s.b0 = .zero
  layout_of_image : s.status.layValid = true → ∃ lay, resolve s.image = .ok lay ∧
    s.sec = lay.sectors.foldl writeEntry [] ∧ s.secCount.toNat = lay.sectors.length ∧
    s.geom = (if lay.blocks = 64 then .k1 else .k4)
  layout_zero : s.status.layValid = false → s.sec = [] ∧ s.secCount = 0 ∧ s.geom = .none
  result_zero : s.status.resValid = false → s.res = ⟨0, 0, 0⟩

/-- The row of the opcode table that raises an error (R250). -/
def errInstr : FormatError → Instr
  | .noBlockData => .errNoBlockData
  | .invalidHexToken line off len => .errInvalidHexToken (.ofNat 32 line) (.ofNat 32 off) (.ofNat 32 len)
  | .tooShortForBlock0 => .errTooShortForBlock0
  | .misalignedImage => .errMisalignedImage
  | .unsupportedCardSize => .errUnsupportedCardSize

/-- The tier code of a field value: "For field values 0 to 5 the tier code equals the field value; 6 and 7 both give 6"
(R103). -/
def tierCodeOf (v : Nat) : Byte := .ofNat 8 (if v ≤ 5 then v else 6)

/-- The read field as arithmetic on the bytes: `b0[7:5]` (R102). -/
def readFieldOf (b0 : Byte) : Nat := b0.toNat / 32

/-- The write field as arithmetic on the bytes: `b0[4:2]` (R102). -/
def writeFieldOf (b0 : Byte) : Nat := b0.toNat / 4 % 8

/-- The increment/decrement field as arithmetic on the bytes: `2 * b0[1:0] + b1[7]` (R102). -/
def incDecFieldOf (b0 b1 : Byte) : Nat := 2 * (b0.toNat % 4) + b1.toNat / 128

/-- The first block of sector `k` (R68). -/
def firstBlockOf (k : Nat) : Nat := if k ≤ 31 then 4 * k else 128 + 16 * (k - 32)

/-- The trailer block of sector `k` (R68). -/
def trailerBlockOf (k : Nat) : Nat := if k ≤ 31 then 4 * k + 3 else 143 + 16 * (k - 32)

/-- The access is a write of a word to `CMD` that the decoder reads as `i`. -/
def StartsCommand (x : HostAccess) (i : Instr) : Prop := ∃ v, x = .write .reg 0x00 v ∧ decodeCmd (cmdWord v) = i

/-- A legal command word (R106): `w[7:3] = 0` and `w[2:0] != 7`. -/
def legalWord (w : Byte) : Bool := w.toNat / 8 == 0 && w.toNat % 8 != 7

end Sys2Proof.Machine
end

