-- ==== Sys2Proof/Certificates/Slice0/Obligations.lean ====
section
/-! DEFINITION. The statements for the provers, one `def Obligations.<Name> : Prop` each, from the numbered rules of the
spec. A statement about a next state is about every state unless its hypotheses say otherwise; the names `exec`, `step`,
`parse`, `resolve`, `decodeImage` are the model's, the loops of R131 (`parseLoops`) and the closed forms of Safety.lean
are the spec's tables written out again. -/

open Sys2Proof Sys2Proof.Machine

/-- The command words 0 to 7 and five illegal words decode to their rows, and one data word of each other format at
its place. [30_encoding.md R106, 30_encoding.md R107, 30_encoding.md R108, 30_encoding.md R103,
42_manufacturerregistry.md R171, 42_manufacturerregistry.md R172, 30_encoding.md R109, 10_state.md R24, log
entry 1] What log entry 1 decides is the model's choice or reading, not a rule of the spec. -/
def Obligations.CommandWordsDecode : Prop :=
  decodeCmd 0x00 = .clear ∧ decodeCmd 0x01 = .parse ∧ decodeCmd 0x02 = .validate ∧ decodeCmd 0x03 = .lookup ∧
  decodeCmd 0x04 = .accdec ∧ decodeCmd 0x05 = .resolve ∧ decodeCmd 0x06 = .decode ∧ decodeCmd 0x07 = .illegalOpc7 ∧
  decodeCmd 0x08 = .illegalBit3 0x08 ∧ decodeCmd 0x10 = .illegalBit4 0x10 ∧ decodeCmd 0x20 = .illegalBit5 0x20 ∧
  decodeCmd 0x40 = .illegalBit6 0x40 ∧ decodeCmd 0x80 = .illegalBit7 0x80 ∧
  decodeTier .write 0b011 = .tierKeyb011 .write ∧ decodeMfr 0x9A = .mfrDefault 0x9A ∧
  decodeErr 0 0 0 4 = .ok .errMisalignedImage

/-- Decoding the word of a well-formed instruction at its place gives the instruction back. [30_encoding.md R103,
30_encoding.md R106, 30_encoding.md R107, 30_encoding.md R108, 30_encoding.md R109, 10_state.md R24,
42_manufacturerregistry.md R171, 42_manufacturerregistry.md R172, log entry 1, log entry 2] What log entry 1 and
log entry 2 decide is the model's choice or reading, not a rule of the spec. -/
def Obligations.DecodeInvertsEncode : Prop :=
  ∀ i : Instr, i.wellFormed = true → decodeAt i.place (encode i) = .ok i

/-- Whatever a decoder reads is well formed, stands at that place and encodes to the word read. [30_encoding.md
R103, 30_encoding.md R106, 30_encoding.md R107, 30_encoding.md R108, 30_encoding.md R109, 10_state.md R24,
42_manufacturerregistry.md R171, 42_manufacturerregistry.md R172, log entry 1, log entry 2] What log entry 1 and
log entry 2 decide is the model's choice or reading, not a rule of the spec. -/
def Obligations.EncodeInvertsDecode : Prop :=
  ∀ (p : Place) (w : Byte) (i : Instr), decodeAt p w = .ok i → i.wellFormed = true ∧ i.place = p ∧ encode i = w

/-- A word is read as an illegal row exactly when OPC = 7 or a bit of 7 to 3 is set, and such a word sets only
ILLCMD. [R108] -/
def Obligations.IllegalWordsAreExactlyThese : Prop :=
  ∀ w : Byte,
    ((decodeCmd w = .illegalOpc7 ∨ decodeCmd w = .illegalBit3 w ∨ decodeCmd w = .illegalBit4 w ∨
      decodeCmd w = .illegalBit5 w ∨ decodeCmd w = .illegalBit6 w ∨ decodeCmd w = .illegalBit7 w) ↔
      (w.toNat / 8 ≠ 0 ∨ w.toNat % 8 = 7)) ∧
    ((w.toNat / 8 ≠ 0 ∨ w.toNat % 8 = 7) →
      ∀ s : State, exec (decodeCmd w) s = .next { s with status := { s.status with illcmd := true } }) ∧
    (∀ i ∈ [Instr.illegalOpc7, .illegalBit3 w, .illegalBit4 w, .illegalBit5 w, .illegalBit6 w, .illegalBit7 w],
      ∀ s : State, exec i s = .next { s with status := { s.status with illcmd := true } })

/-- A step on a pending write to CMD is exec of the decoded instruction. [10_state.md R21, 70_reset_and_hazards.md
R285, log entry 5] What log entry 5 decides is the model's choice or reading, not a rule of the spec. -/
def Obligations.StepRunsTheCommandWritten : Prop :=
  ∀ (s : State) (v : Word) (rest : List HostAccess), s.pending = .write .reg 0x00 v :: rest →
    step s = exec (decodeCmd (v.setWidth 8)) { s with pending := rest }

/-- The word that withFetchWord places is what the next step runs. [10_state.md R21, log entry 1, log entry 5] What
log entry 1 and log entry 5 decide is the model's choice or reading, not a rule of the spec. -/
def Obligations.FetchWordIsRunNext : Prop :=
  ∀ (s : State) (w : Nat), w < 256 →
    step (s.withFetchWord 8 w) = exec (decodeCmd (.ofNat 8 w)) s ∧ decodeTableWord 8 w = some (decodeCmd (.ofNat 8 w))

/-- step and exec answer a next state from every state, never a fault or a refusal; without an access the state
stays. [20_memory.md R80, 70_reset_and_hazards.md R288, 70_reset_and_hazards.md R282, log entry 1, log entry 6,
log entry 14] What log entry 1 and log entry 6 and log entry 14 decide is the model's choice or reading, not a
rule of the spec. -/
def Obligations.EveryStepAnswersNext : Prop :=
  (∀ s : State, ∃ t, step s = .next t) ∧ (∀ (i : Instr) (s : State), ∃ t, exec i s = .next t) ∧
    (∀ s : State, s.pending = [] → step s = .next s)

/-- A host read changes no state of the block and is repeatable. [20_memory.md R72, 70_reset_and_hazards.md R285] -/
def Obligations.HostReadsChangeNothing : Prop :=
  ∀ (s : State) (sp : Space) (a : Nat) (rest : List HostAccess), s.pending = .read sp a :: rest →
    step s = .next { s with pending := rest, readData := s.hostRead sp a } ∧
    ∀ t, step s = .next t → t.hostRead sp a = s.hostRead sp a

/-- Each register number reads the register the map puts there, zero-extended; CMD and reserved numbers read 0.
[10_state.md R20, 10_state.md R21, 10_state.md R39, 10_state.md R23, 10_state.md R27, 30_encoding.md R109,
30_encoding.md R110] -/
def Obligations.RegisterMapReads : Prop :=
  ∀ s : State,
    s.hostRead .reg 0x00 = 0 ∧ s.hostRead .reg 0x01 = s.status.word.setWidth 32 ∧
    s.hostRead .reg 0x02 = s.err.code.toBits.setWidth 32 ∧ s.hostRead .reg 0x03 = s.err.line ∧
    s.hostRead .reg 0x04 = s.err.tokOff ∧ s.hostRead .reg 0x05 = s.err.tokLen ∧ s.hostRead .reg 0x06 = s.txtLen ∧
    s.hostRead .reg 0x07 = s.imgLen ∧ s.hostRead .reg 0x08 = s.geom.toBits.setWidth 32 ∧
    [Geom.none, .k1, .k4].map (fun g => ({ s with geom := g } : State).hostRead .reg 0x08) = [0, 1, 2] ∧
    [ErrCode.noError, .noBlockData, .invalidHexToken, .tooShortForBlock0, .misalignedImage, .unsupportedCardSize].map
      (fun c => ({ s with err := { s.err with code := c } } : State).hostRead .reg 0x02) = [0, 1, 2, 3, 4, 5] ∧
    s.hostRead .reg 0x09 = s.secCount.setWidth 32 ∧
    [0x0A, 0x0B, 0x0C, 0x0D].map (s.hostRead .reg) =
      [s.b0.uid0, s.b0.uid1, s.b0.uid2, s.b0.uid3].map (fun b => b.setWidth 32) ∧
    s.hostRead .reg 0x0E = s.b0.bcc.setWidth 32 ∧ s.hostRead .reg 0x0F = s.b0.bccExp.setWidth 32 ∧
    s.hostRead .reg 0x10 = (if s.b0.bccOk then 1 else 0) ∧ s.hostRead .reg 0x11 = s.b0.mfrCode.setWidth 32 ∧
    s.hostRead .reg 0x12 = s.b0.mfrId.setWidth 32 ∧ s.hostRead .reg 0x13 = s.b0.year.setWidth 32 ∧
    s.hostRead .reg 0x14 = s.b0.week.setWidth 32 ∧
    [0x15, 0x16, 0x17].map (s.hostRead .reg) = [0, 0, 0] ∧
    [0x18, 0x19, 0x1A, 0x1B, 0x1C].map (s.hostRead .reg) =
      [s.arg.a0, s.arg.a1, s.arg.a2, s.arg.a3, s.arg.a4].map (fun b => b.setWidth 32) ∧
    [0x1D, 0x1E, 0x1F].map (s.hostRead .reg) = [s.res.r0, s.res.r1, s.res.r2].map (fun b => b.setWidth 32) ∧
    ∀ a, 0x1F < a → s.hostRead .reg a = 0

/-- STATUS reads as ST in bits [1:0] and the five flags in bits 2 to 6. [10_state.md R22, 30_encoding.md R110] -/
def Obligations.StatusBitsAreTheFlags : Prop :=
  ∀ s : State, ((s.hostRead .reg 0x01).extractLsb' 0 2).toNat = (match s.status.st with | .idle => 0 | .done => 1 | .error => 2) ∧
    (s.hostRead .reg 0x01).getLsbD 2 = s.status.imgValid ∧ (s.hostRead .reg 0x01).getLsbD 3 = s.status.b0Valid ∧
    (s.hostRead .reg 0x01).getLsbD 4 = s.status.layValid ∧ (s.hostRead .reg 0x01).getLsbD 5 = s.status.resValid ∧
    (s.hostRead .reg 0x01).getLsbD 6 = s.status.illcmd ∧ (s.hostRead .reg 0x01).toNat < 128

/-- Reads of IMG are gated by IMG_LEN; reads outside SEC and TXT return 0; a TXT cell reads what was last written or
a free value. [20_memory.md R73, 10_state.md R50, 70_reset_and_hazards.md R283, log entry 3] What log entry 3
decides is the model's choice or reading, not a rule of the spec. -/
def Obligations.GatedMemoryReads : Prop :=
  ∀ (s : State) (a : Nat),
    s.hostRead .img a = (if a < s.imgLen.toNat then (s.imgByte a).setWidth 32 else 0) ∧
    (1279 < a → s.hostRead .sec a = 0) ∧
    (s.txtMax ≤ a → s.hostRead .txt a = 0) ∧
    (a < s.txtMax → ∀ v : Byte, Memory.get? s.txt a = some v → s.hostRead .txt a = v.setWidth 32) ∧
    (a < s.txtMax → Memory.get? s.txt a = none → s.hostRead .txt a = (Config.txtUnspecified s.txtEpoch a).setWidth 32) ∧
    (a < s.txtMax → ∀ v : Word, (s.writeTxt a (v.setWidth 8)).hostRead .txt a = (v.setWidth 8 : Byte).setWidth 32) ∧
    (∀ (t : State) (x : HostAccess) (rest : List HostAccess), s.pending = x :: rest → step s = .next t → x ≠ .reset →
      (∀ v, x ≠ .write .txt a v) → t.hostRead .txt a = s.hostRead .txt a)

/-- A host write to TXT stores the low byte at that address and changes nothing else; at or above TXT_MAX it is
ignored. [20_memory.md R74, 10_state.md R41] -/
def Obligations.HostPokeWritesOneTextByte : Prop :=
  ∀ (s : State) (a : Nat) (v : Word) (rest : List HostAccess), s.pending = .write .txt a v :: rest →
    ∃ t, step s = .next t ∧ t = { s with txt := t.txt, pending := rest } ∧
      (a < s.txtMax → t.readTxt a = v.setWidth 8) ∧ (∀ b, b ≠ a → t.readTxt b = s.readTxt b) ∧
      (s.txtMax ≤ a → t.txt = s.txt)

/-- A write of v to TXT_LEN stores v when v <= TXT_MAX and is ignored otherwise. [10_state.md R25] -/
def Obligations.TxtLenWriteIsBounded : Prop :=
  ∀ (s : State) (v : Word) (rest : List HostAccess), s.pending = .write .reg 0x06 v :: rest →
    (v.toNat ≤ s.txtMax → step s = .next { s with txtLen := v, pending := rest }) ∧
    (s.txtMax < v.toNat → step s = .next { s with pending := rest })

/-- A write of v to ARG[i] stores v[7:0] in that register alone. [10_state.md R37] -/
def Obligations.ArgWritesStoreTheLowByte : Prop :=
  ∀ (s : State) (v : Word) (rest : List HostAccess),
    (s.pending = .write .reg 0x18 v :: rest → step s = .next { s with arg := { s.arg with a0 := v.setWidth 8 }, pending := rest }) ∧
    (s.pending = .write .reg 0x19 v :: rest → step s = .next { s with arg := { s.arg with a1 := v.setWidth 8 }, pending := rest }) ∧
    (s.pending = .write .reg 0x1A v :: rest → step s = .next { s with arg := { s.arg with a2 := v.setWidth 8 }, pending := rest }) ∧
    (s.pending = .write .reg 0x1B v :: rest → step s = .next { s with arg := { s.arg with a3 := v.setWidth 8 }, pending := rest }) ∧
    (s.pending = .write .reg 0x1C v :: rest → step s = .next { s with arg := { s.arg with a4 := v.setWidth 8 }, pending := rest })

/-- Reserved registers read 0 and ignore writes; writes to read-only registers, to IMG and to SEC are ignored.
[10_state.md R39, 20_memory.md R74, 10_state.md R42, 10_state.md R43] -/
def Obligations.IgnoredWrites : Prop :=
  (∀ (s : State) (a : Nat), (0x15 ≤ a ∧ a ≤ 0x17) ∨ 0x1F < a → s.hostRead .reg a = 0) ∧
  (∀ (s : State) (sp : Space) (a : Nat) (v : Word) (rest : List HostAccess), s.pending = .write sp a v :: rest →
    (sp = .img ∨ sp = .sec ∨ (sp = .reg ∧ ((0x15 ≤ a ∧ a ≤ 0x17) ∨ 0x1F < a ∨ (0x01 ≤ a ∧ a ≤ 0x05) ∨
      (0x07 ≤ a ∧ a ≤ 0x14) ∨ (0x1D ≤ a ∧ a ≤ 0x1F)))) →
    step s = .next { s with pending := rest })

/-- An address outside every defined range reads 0 and ignores writes. [20_memory.md R80, 20_memory.md R60] -/
def Obligations.OutOfRangeAccessesNeverFault : Prop :=
  ∀ (s : State) (sp : Space) (a : Nat), MemInv s →
    ((sp = .reg ∧ 0x1F < a) ∨ (sp = .txt ∧ s.txtMax ≤ a) ∨ (sp = .img ∧ s.txtMax / 2 ≤ a) ∨ (sp = .sec ∧ 1279 < a)) →
    s.hostRead sp a = 0 ∧
    ∀ (v : Word) (rest : List HostAccess), s.pending = .write sp a v :: rest → step s = .next { s with pending := rest }

/-- After reset every register, every IMG address and every SEC byte reads 0. [10_state.md R50,
70_reset_and_hazards.md R281] -/
def Obligations.ResetStateReadsZero : Prop :=
  (∀ a, State.reset.hostRead .reg a = 0) ∧ (∀ a, State.reset.hostRead .img a = 0) ∧
    (∀ a, State.reset.hostRead .sec a = 0) ∧ (∀ a, Memory.get? State.reset.txt a = none)

/-- The reset event puts the block into the reset state from any state. [70_reset_and_hazards.md R280,
70_reset_and_hazards.md R281, 10_state.md R50, log entry 3, log entry 4, log entry 5, log entry 7, log entry 10]
What log entry 3 and log entry 4 and log entry 5 and log entry 7 and log entry 10 decide is the model's choice
or reading, not a rule of the spec. -/
def Obligations.HostResetFromAnyState : Prop :=
  ∀ (s : State) (rest : List HostAccess), s.pending = .reset :: rest →
    step s = .next { State.reset with txtMax := s.txtMax, txtEpoch := s.txtEpoch + 1, pending := rest, readData := s.readData }

/-- CLEAR gives every register, flag and SEC byte its reset value and keeps the TXT cells. [R234] -/
def Obligations.ClearGivesResetRegisters : Prop :=
  decodeCmd 0x00 = .clear ∧ ∀ s : State, ∃ t, exec .clear s = .next t ∧
    (∀ a, t.hostRead .reg a = State.reset.hostRead .reg a) ∧ (∀ a, t.hostRead .sec a = State.reset.hostRead .sec a) ∧
    (∀ a, t.hostRead .img a = 0) ∧ (∀ a, t.hostRead .txt a = s.hostRead .txt a) ∧
    t.status = ⟨.idle, false, false, false, false, false⟩ ∧ t.err = ⟨.noError, 0, 0, 0⟩ ∧ t.txtLen = 0 ∧ t.imgLen = 0 ∧
    t.arg = ⟨0, 0, 0, 0, 0⟩ ∧ t.res = ⟨0, 0, 0⟩ ∧ t.geom = .none ∧ t.secCount = 0 ∧ t.b0 = .zero ∧ t.sec = [] ∧
    t.txt = s.txt ∧ t.img = s.img ∧ t.txtMax = s.txtMax ∧ t.txtEpoch = s.txtEpoch ∧ t.pending = s.pending ∧ t.readData = s.readData

/-- ILLCMD is 1 after an illegal write to CMD, 0 after a legal one or reset, and no other access changes it.
[10_state.md R22, 10_state.md R46, 45_cardimagedecoder.md R236] -/
def Obligations.IllcmdTellsTheLastCommandWrite : Prop :=
  ∀ (s t : State) (x : HostAccess) (rest : List HostAccess), s.pending = x :: rest → step s = .next t →
    (∀ v, x = .write .reg 0x00 v → t.status.illcmd = !legalWord (v.setWidth 8)) ∧
    (x = .reset → t.status.illcmd = false) ∧
    ((∀ v, x ≠ .write .reg 0x00 v) → x ≠ .reset → t.status.illcmd = s.status.illcmd)

/-- VALIDATE writes valid, expected, 0 to RES and nothing but RES, RES_VALID, ST, ILLCMD and the error record.
[R163] -/
def Obligations.ValidateResult : Prop :=
  decodeCmd 0x02 = .validate ∧ ∀ s : State, exec .validate s = .next { s with
      status := { s.status with st := .done, resValid := true, illcmd := false }
      err := ⟨.noError, 0, 0, 0⟩
      res := ⟨if s.arg.a0 ^^^ s.arg.a1 ^^^ s.arg.a2 ^^^ s.arg.a3 = s.arg.a4 then 1 else 0,
        s.arg.a0 ^^^ s.arg.a1 ^^^ s.arg.a2 ^^^ s.arg.a3, 0⟩ }

/-- Laws of Validate: order of the UID bytes, round trip, one valid check byte, the two constant UIDs, XOR zero.
[R162] -/
def Obligations.ValidateLaws : Prop :=
  (∀ a b c d k : Byte, validate a b c d k = validate b a c d k ∧ validate a b c d k = validate a c b d k ∧
    validate a b c d k = validate a b d c k) ∧
  (∀ a b c d : Byte, (validate a b c d (a ^^^ b ^^^ c ^^^ d)).1 = true) ∧
  (∀ a b c d : Byte, ∃ k, (validate a b c d k).1 = true ∧ ∀ k', (validate a b c d k').1 = true → k' = k) ∧
  (∀ k : Byte, (validate 0x00 0x00 0x00 0x00 k).2 = 0x00 ∧ (validate 0xFF 0xFF 0xFF 0xFF k).2 = 0x00) ∧
  (∀ a b c d k : Byte, (validate a b c d k).2 ^^^ k = 0 ↔ (validate a b c d k).1 = true)

/-- LOOKUP writes the entry number of ARG[0] to RES[0] and 0 to RES[1], RES[2]. [R174] -/
def Obligations.LookupResult : Prop :=
  decodeCmd 0x03 = .lookup ∧ ∀ s : State, exec .lookup s = .next { s with
      status := { s.status with st := .done, resValid := true, illcmd := false }
      err := ⟨.noError, 0, 0, 0⟩
      res := ⟨.ofNat 8 (mfrId s.arg.a0), 0, 0⟩ }

/-- MfrId is the number of the row with the code, or 36 when no row has it; MfrName is that row's name or the
default. [R171] -/
def Obligations.MfrIdFindsTheRow : Prop :=
  mfrTable.length = 36 ∧
  ∀ code : Byte,
    (∀ i, i < 36 → (mfrId code = i ↔ (mfrTable[i]?).map (·.1) = some code)) ∧
    (mfrId code = 36 ↔ ∀ row ∈ mfrTable, row.1 ≠ code) ∧ mfrId code ≤ 36 ∧
    (mfrId code = 36 → mfrName code = "Unknown Manufacturer") ∧
    (∀ row, mfrTable[mfrId code]? = some row → mfrName code = row.2)

/-- Each of the 36 manufacturer rows, and the default, is the look-up that writes its entry number.
[42_manufacturerregistry.md R172, 42_manufacturerregistry.md R174, log entry 1] What log entry 1 decides is the
model's choice or reading, not a rule of the spec. -/
def Obligations.MfrRowsWriteTheirEntry : Prop :=
  ∀ (s : State) (code : Byte),
    ∀ p ∈ ([(Instr.mfr00, 0), (Instr.mfr04, 1), (Instr.mfr05, 2), (Instr.mfr07, 3), (Instr.mfr0A, 4), (Instr.mfr0B, 5),
      (Instr.mfr0C, 6), (Instr.mfr0F, 7), (Instr.mfr11, 8), (Instr.mfr13, 9), (Instr.mfr1F, 10), (Instr.mfr2B, 11),
      (Instr.mfr2E, 12), (Instr.mfr39, 13), (Instr.mfr3F, 14), (Instr.mfr41, 15), (Instr.mfr43, 16), (Instr.mfr4A, 17),
      (Instr.mfr4D, 18), (Instr.mfr55, 19), (Instr.mfr6A, 20), (Instr.mfr7C, 21), (Instr.mfr88, 22), (Instr.mfr8A, 23),
      (Instr.mfrA0, 24), (Instr.mfrA1, 25), (Instr.mfrB0, 26), (Instr.mfrB3, 27), (Instr.mfrC0, 28), (Instr.mfrC1, 29),
      (Instr.mfrC2, 30), (Instr.mfrD2, 31), (Instr.mfrE0, 32), (Instr.mfrE1, 33), (Instr.mfrF0, 34), (Instr.mfrFF, 35),
      (Instr.mfrDefault code, 36)] : List (Instr × Byte)),
      exec p.1 s = .next { s with
        status := { s.status with st := .done, resValid := true, illcmd := false }
        err := ⟨.noError, 0, 0, 0⟩
        res := ⟨p.2, 0, 0⟩ }

/-- LOOKUP does what the opcode-table row that ARG[0] selects does. [42_manufacturerregistry.md R170,
42_manufacturerregistry.md R175, 42_manufacturerregistry.md R172, log entry 1] What log entry 1 decides is the
model's choice or reading, not a rule of the spec. -/
def Obligations.LookupRunsTheRowOfItsOperand : Prop :=
  ∀ s : State, exec .lookup s = exec (decodeMfr s.arg.a0) s

/-- ACCDEC writes the tiers of b0[7:5], b0[4:2] and 2*b0[1:0]+b1[7] to RES. [R186] -/
def Obligations.AccdecResult : Prop :=
  decodeCmd 0x04 = .accdec ∧ ∀ s : State, exec .accdec s = .next { s with
      status := { s.status with st := .done, resValid := true, illcmd := false }
      err := ⟨.noError, 0, 0, 0⟩
      res := ⟨tierCodeOf (readFieldOf s.arg.a0), tierCodeOf (writeFieldOf s.arg.a0),
        tierCodeOf (incDecFieldOf s.arg.a0 s.arg.a1)⟩ }

/-- AccDec ignores b1[6:0] and b2, gives every triple of tiers, and its three tiers are independent. [R185] -/
def Obligations.AccDecProperties : Prop :=
  (∀ b0 b1 b1' b2 b2' : Byte, b1.getLsbD 7 = b1'.getLsbD 7 → accDec b0 b1 b2 = accDec b0 b1' b2') ∧
  (∀ b0 b1 b2 : Byte, (accDec b0 b1 b2).rd.code = tierCodeOf (readFieldOf b0) ∧
    (accDec b0 b1 b2).wr.code = tierCodeOf (writeFieldOf b0) ∧
    (accDec b0 b1 b2).id.code = tierCodeOf (incDecFieldOf b0 b1)) ∧
  (∀ b0 b1 b2 : Byte, ((accDec b0 b1 b2).rd = .invalid ↔ 6 ≤ readFieldOf b0) ∧
    ((accDec b0 b1 b2).wr = .invalid ↔ 6 ≤ writeFieldOf b0) ∧ ((accDec b0 b1 b2).id = .invalid ↔ 6 ≤ incDecFieldOf b0 b1)) ∧
  (∀ c : AccessConditions, ∃ b0 b1 b2 : Byte, accDec b0 b1 b2 = c) ∧
  accDec 0x00 0x00 0x00 = ⟨.noAccess, .noAccess, .noAccess⟩ ∧ accDec 0xFF 0xFF 0xFF = ⟨.invalid, .invalid, .invalid⟩ ∧
  accDec 0xFF 0x07 0x80 = ⟨.invalid, .invalid, .invalid⟩ ∧
  noAuthText .read ≠ noAuthText .write ∧ noAuthText .write ≠ noAuthText .incDec ∧ noAuthText .read ≠ noAuthText .incDec

/-- Each of the 8 pattern rows is the decoding of an access string whose field holds the pattern.
[43_accessbitsdecoder.md R183, 43_accessbitsdecoder.md R186, log entry 1] What log entry 1 decides is the
model's choice or reading, not a rule of the spec. -/
def Obligations.TierRowsWriteTheirTier : Prop :=
  ∀ (s : State) (f : AccField),
    ∀ p ∈ ([(Instr.tierNoAccess000 f, 0),
      (Instr.tierAlways001 f, 1),
      (Instr.tierKeya010 f, 2),
      (Instr.tierKeyb011 f, 3),
      (Instr.tierNoauth100 f, 4),
      (Instr.tierEither101 f, 5),
      (Instr.tierInvalid110 f, 6),
      (Instr.tierInvalid111 f, 6)] : List (Instr × Byte)),
      exec p.1 s = .next { s with
        status := { s.status with st := .done, resValid := true, illcmd := false }
        err := ⟨.noError, 0, 0, 0⟩
        res := ⟨if f = .read then p.2 else tierCodeOf (readFieldOf s.arg.a0),
          if f = .write then p.2 else tierCodeOf (writeFieldOf s.arg.a0),
          if f = .incDec then p.2 else tierCodeOf (incDecFieldOf s.arg.a0 s.arg.a1)⟩ }

/-- ACCDEC does what the opcode-table row of the pattern in any one field of ARG does. [43_accessbitsdecoder.md
R181, 43_accessbitsdecoder.md R182, 43_accessbitsdecoder.md R183, log entry 1] What log entry 1 decides is the
model's choice or reading, not a rule of the spec. -/
def Obligations.AccdecRunsTheRowOfEachField : Prop :=
  ∀ (s : State) (f : AccField),
    exec .accdec s = exec (decodeTier f (.ofNat 3 (match f with
      | .read => readFieldOf s.arg.a0 | .write => writeFieldOf s.arg.a0 | .incDec => incDecFieldOf s.arg.a0 s.arg.a1))) s

/-- Raising an error writes ST = ERROR, ERR = its code, and for InvalidHexToken the three record registers, and
nothing else. [R258] -/
def Obligations.RaiseWritesTheErrorRecord : Prop :=
  (∀ (s : State) (line off len : Nat), s.raise (.invalidHexToken line off len) = { s with
      status := { s.status with st := .error }, err := ⟨.invalidHexToken, .ofNat 32 line, .ofNat 32 off, .ofNat 32 len⟩ }) ∧
  (∀ s : State, s.raise .noBlockData = { s with
      status := { s.status with st := .error }, err := { s.err with code := .noBlockData } }) ∧
  (∀ s : State, s.raise .tooShortForBlock0 = { s with
      status := { s.status with st := .error }, err := { s.err with code := .tooShortForBlock0 } }) ∧
  (∀ s : State, s.raise .misalignedImage = { s with
      status := { s.status with st := .error }, err := { s.err with code := .misalignedImage } }) ∧
  (∀ s : State, s.raise .unsupportedCardSize = { s with
      status := { s.status with st := .error }, err := { s.err with code := .unsupportedCardSize } }) ∧
  St.error.toBits = 2 ∧
  [ErrCode.noBlockData, .invalidHexToken, .tooShortForBlock0, .misalignedImage, .unsupportedCardSize].map
    (fun c => c.toBits.toNat) = [1, 2, 3, 4, 5]

/-- Each of the five error rows writes ST = ERROR and its code, and InvalidHexToken its record, and nothing else.
[60_exceptions.md R258, 60_exceptions.md R250, log entry 1] What log entry 1 decides is the model's choice or
reading, not a rule of the spec. -/
def Obligations.ErrorRowsRaiseTheirError : Prop :=
  (∀ (s : State) (line off len : Word),
    exec (.errInvalidHexToken line off len) s = .next { s with
      status := { s.status with st := .error }, err := ⟨.invalidHexToken, line, off, len⟩ }) ∧
  (∀ s : State, exec .errNoBlockData s = .next { s with
      status := { s.status with st := .error }, err := { s.err with code := .noBlockData } }) ∧
  (∀ s : State, exec .errTooShortForBlock0 s = .next { s with
      status := { s.status with st := .error }, err := { s.err with code := .tooShortForBlock0 } }) ∧
  (∀ s : State, exec .errMisalignedImage s = .next { s with
      status := { s.status with st := .error }, err := { s.err with code := .misalignedImage } }) ∧
  (∀ s : State, exec .errUnsupportedCardSize s = .next { s with
      status := { s.status with st := .error }, err := { s.err with code := .unsupportedCardSize } })

/-- A failing PARSE, RESOLVE or DECODE is its start block, the completed parse stage, and the raise row of the
error. [60_exceptions.md R256, 60_exceptions.md R258, 40_hexblockparser.md R141, 44_sectorlayoutresolver.md
R210, 45_cardimagedecoder.md R228, log entry 1] What log entry 1 decides is the model's choice or reading, not a
rule of the spec. -/
def Obligations.FailingOperationsRaiseTheirRow : Prop :=
  ∀ (s : State) (e : FormatError),
    (parse s.text = .error e → exec .parse s = exec (errInstr e) s.startImage ∧ exec .decode s = exec (errInstr e) s.startImage) ∧
    (resolve s.image = .error e → exec .resolve s = exec (errInstr e) s.startLayout) ∧
    (∀ I, parse s.text = .ok I → decodeImage I = .error e →
      exec .decode s = exec (errInstr e) (s.startImage.storeImage I))

/-- After an error ST = ERROR, B0_VALID and LAY_VALID are 0, and TXT, TXT_LEN, ARG, RES are unchanged; the block
never stops. [R259] -/
def Obligations.ErrorsNeverTouchInputs : Prop :=
  ∀ s : State, Inv s → ∀ i ∈ [Instr.parse, .resolve, .decode], ∃ t, exec i s = .next t ∧
    (t.err.code ≠ .noError → t.status.st = .error ∧ t.status.b0Valid = false ∧ t.status.layValid = false ∧
      t.txt = s.txt ∧ t.txtLen = s.txtLen ∧ t.arg = s.arg ∧ t.res = s.res ∧ t.status.resValid = s.status.resValid)

/-- What a legal command does is independent of ST, ILLCMD and the error record before it. [60_exceptions.md R260,
70_reset_and_hazards.md R289] -/
def Obligations.ErrorStateRestrictsNothing : Prop :=
  ∀ (s : State) (st : St) (ill : Bool) (e : ErrRegs),
    ∀ i ∈ [Instr.clear, .parse, .validate, .lookup, .accdec, .resolve, .decode],
      exec i { s with status := { s.status with st := st, illcmd := ill }, err := e } = exec i s ∧
      ∃ t, exec i s = .next t ∧
        ((t.status.st ≠ .error ∧ t.err = ⟨.noError, 0, 0, 0⟩) ∨ (t.status.st = .error ∧ t.err.code ≠ .noError))

/-- The hex digits and their values. [R97] -/
def Obligations.HexDigitTable : Prop :=
  ∀ x : Byte, (0x30 ≤ x.toNat ∧ x.toNat ≤ 0x39 → digit? x = some (x.toNat - 0x30) ∧ x.toNat - 0x30 ≤ 9) ∧
    (0x41 ≤ x.toNat ∧ x.toNat ≤ 0x46 → digit? x = some (x.toNat - 0x37) ∧ 10 ≤ x.toNat - 0x37 ∧ x.toNat - 0x37 ≤ 15) ∧
    (0x61 ≤ x.toNat ∧ x.toNat ≤ 0x66 → digit? x = some (x.toNat - 0x57) ∧ 10 ≤ x.toNat - 0x57 ∧ x.toNat - 0x57 ≤ 15) ∧
    (¬ (0x30 ≤ x.toNat ∧ x.toNat ≤ 0x39) → ¬ (0x41 ≤ x.toNat ∧ x.toNat ≤ 0x46) → ¬ (0x61 ≤ x.toNat ∧ x.toNat ≤ 0x66) →
      digit? x = none)

/-- A token is valid exactly when it is one or two hex digits; its value is the digit, or 16 * first + second.
[30_encoding.md R96, 20_memory.md R63] -/
def Obligations.TokenValidityAndValue : Prop :=
  (∀ tok : List Byte, (tokenValue? tok).isSome = true ↔
    (tok.length = 1 ∨ tok.length = 2) ∧ ∀ x ∈ tok, (digit? x).isSome = true) ∧
  (∀ (a : Byte) (x : Nat), digit? a = some x → ∃ v, tokenValue? [a] = some v ∧ v.toNat = x) ∧
  (∀ (a b : Byte) (x y : Nat), digit? a = some x → digit? b = some y →
    ∃ v, tokenValue? [a, b] = some v ∧ v.toNat = 16 * x + y)

/-- The parser gives what the loops of R131, written out as on the page, give on every text. [40_hexblockparser.md
R131, log entry 11] What log entry 11 decides is the model's choice or reading, not a rule of the spec. -/
def Obligations.ParseLoopsAgree : Prop :=
  ∀ T : List Byte, parse T = parseLoops T

/-- Parse gives NoBlockData exactly when no line of the text is a Block line. [R139] -/
def Obligations.NoBlockDataMeansNoBlockLine : Prop :=
  (∀ T : List Byte, parse T = .error .noBlockData ↔ ∀ L ∈ splitOn chLf T, isBlockLine L = false) ∧
    parse [] = .error .noBlockData

/-- An image of k >= 1 bytes needs a text of at least 2k + 5 bytes, the bound is reached, and IMG cannot overflow.
[R81] -/
def Obligations.ParsedImageIsBounded : Prop :=
  (∀ T I : List Byte, parse T = .ok I → 1 ≤ I.length ∧ 2 * I.length + 5 ≤ T.length) ∧
  (∀ k, 1 ≤ k → ∃ T I : List Byte, T.length = 2 * k + 5 ∧ parse T = .ok I ∧ I.length = k) ∧
  (∀ (s : State) (I : List Byte), s.txtLen.toNat ≤ s.txtMax → parse s.text = .ok I →
    I.length ≤ (s.txtLen.toNat - 5) / 2 ∧ (s.txtLen.toNat - 5) / 2 < s.txtMax / 2 ∧ I.length < 2 ^ 31)

/-- The line, offset and length of an InvalidHexToken lie inside the text, so the registers hold them whole.
[40_hexblockparser.md R142, 40_hexblockparser.md R140, 10_state.md R24, 40_hexblockparser.md R137] -/
def Obligations.ErrorRecordIsBounded : Prop :=
  (∀ (T : List Byte) (line off len : Nat), parse T = .error (.invalidHexToken line off len) →
    1 ≤ line ∧ line ≤ T.count chLf + 1 ∧ line + 4 ≤ T.length ∧ off ≤ T.length ∧ off + len ≤ T.length) ∧
  (∀ (T : List Byte) (e : FormatError), parse T = .error e →
    e = .noBlockData ∨ ∃ line off len, e = .invalidHexToken line off len)
  ∧ (∀ (s : State) (line off len : Nat), parse s.text = .error (.invalidHexToken line off len) →
    ∀ i ∈ [Instr.parse, .decode], ∃ t, exec i s = .next t ∧ t.err.code = .invalidHexToken ∧
      t.err.line.toNat = line ∧ t.err.tokOff.toNat = off ∧ t.err.tokLen.toNat = len)

/-- A dump rendered from byte groups parses back to their concatenation, whatever the labels. [30_encoding.md R93,
30_encoding.md R98, 20_memory.md R62, 40_hexblockparser.md R138, 30_encoding.md R114] -/
def Obligations.RenderedDumpParsesBack : Prop :=
  ∀ lines : List (List Byte × List Byte), lines ≠ [] →
    (∀ l ∈ lines, chColon ∉ l.1 ∧ chLf ∉ l.1 ∧ l.2 ≠ []) →
    parse (dumpText lines) = .ok (lines.flatMap (·.2))

/-- PARSE: the state written when Parse succeeds, when it gives NoBlockData, and when it gives InvalidHexToken.
[R141] -/
def Obligations.ParseWritesTheImage : Prop :=
  decodeCmd 0x01 = .parse ∧
  (∀ (s : State) (I : List Byte), parse s.text = .ok I → exec .parse s = .next { s with
      status := { s.status with st := .done, imgValid := true, b0Valid := false, layValid := false, illcmd := false }
      err := ⟨.noError, 0, 0, 0⟩, imgLen := .ofNat 32 I.length, img := Memory.writeRange .img s.img 0 I
      b0 := .zero, geom := .none, secCount := 0, sec := [] }) ∧
  (∀ s : State, parse s.text = .error .noBlockData → exec .parse s = .next { s with
      status := { s.status with st := .error, imgValid := false, b0Valid := false, layValid := false, illcmd := false }
      err := ⟨.noBlockData, 0, 0, 0⟩, imgLen := 0, b0 := .zero, geom := .none, secCount := 0, sec := [] }) ∧
  (∀ (s : State) (line off len : Nat), parse s.text = .error (.invalidHexToken line off len) →
    exec .parse s = .next { s with
      status := { s.status with st := .error, imgValid := false, b0Valid := false, layValid := false, illcmd := false }
      err := ⟨.invalidHexToken, .ofNat 32 line, .ofNat 32 off, .ofNat 32 len⟩
      imgLen := 0, b0 := .zero, geom := .none, secCount := 0, sec := [] }) ∧
  (∀ s : State, ∃ t, exec .parse s = .next t)

/-- PARSE reads TXT[0:TXT_LEN) as the host reads it, its image reads back byte for byte, and no other cell of IMG
changed. [40_hexblockparser.md R141, 10_state.md R42, 20_memory.md R62, 20_memory.md R73, 10_state.md R25,
40_hexblockparser.md R130] -/
def Obligations.ParseStoresTheImageReadBack : Prop :=
  (∀ (s : State) (I : List Byte), parse s.text = .ok I → ∃ t, exec .parse s = .next t ∧
    t.imgLen.toNat = I.length ∧ (∀ a, a < I.length → t.readImg a = I.getD a 0) ∧ (∀ a, I.length ≤ a → t.readImg a = 0) ∧
    (∀ a, I.length ≤ a → t.imgByte a = s.imgByte a) ∧ (∀ a, t.readTxt a = s.readTxt a) ∧ t.txtLen = s.txtLen ∧
    t.arg = s.arg ∧ t.res = s.res ∧ t.status.resValid = s.status.resValid) ∧
  (∀ (s : State) (e : FormatError), parse s.text = .error e → ∃ t, exec .parse s = .next t ∧
    (∀ a, t.readImg a = 0) ∧ (∀ a, t.imgByte a = s.imgByte a) ∧ (∀ a, t.readTxt a = s.readTxt a) ∧
    t.txtLen = s.txtLen ∧ t.arg = s.arg ∧ t.res = s.res ∧ t.status.resValid = s.status.resValid)
  ∧ (∀ s : State, s.txtLen.toNat ≤ s.txtMax → s.text = (List.range s.txtLen.toNat).map s.readTxt)

/-- Partition(64) gives 16 sectors of 4 blocks, Partition(256) gives 32 of 4 and 8 of 16.
[44_sectorlayoutresolver.md R202, 20_memory.md R68] -/
def Obligations.PartitionOfTheTwoGeometries : Prop :=
  sectorPartition 64 = (List.range 16).map (fun k => ⟨k, firstBlockOf k, 4, trailerBlockOf k⟩) ∧
  sectorPartition 256 = (List.range 40).map (fun k => ⟨k, firstBlockOf k, if k ≤ 31 then 4 else 16, trailerBlockOf k⟩)

/-- Partition(N) gives consecutive sectors without gaps, at most 40, never a partial one, and stops only where it
must. [44_sectorlayoutresolver.md R200, 44_sectorlayoutresolver.md R201] -/
def Obligations.PartitionIsContiguous : Prop :=
  ∀ N : Nat,
    (∀ (k : Nat) (x : SectorSpan), (sectorPartition N)[k]? = some x →
      x.s = k ∧ x.first = firstBlockOf k ∧ x.nb = (if k ≤ 31 then 4 else 16) ∧ x.tb = x.first + x.nb - 1 ∧ x.first + x.nb ≤ N) ∧
    (sectorPartition N).length ≤ 40 ∧
    ((sectorPartition N).length < 40 →
      N < firstBlockOf (sectorPartition N).length + (if (sectorPartition N).length ≤ 31 then 4 else 16))

/-- RESOLVE raises MisalignedImage for a length not a multiple of 16, else UnsupportedCardSize unless 1024 or 4096.
[44_sectorlayoutresolver.md R197, 44_sectorlayoutresolver.md R198, 44_sectorlayoutresolver.md R199,
44_sectorlayoutresolver.md R209, 44_sectorlayoutresolver.md R210] -/
def Obligations.ResolveChecksAlignmentThenSize : Prop :=
  (∀ s : State, s.imgLen.toNat % 16 ≠ 0 → exec .resolve s = .next { s with
      status := { s.status with st := .error, layValid := false, illcmd := false }
      err := ⟨.misalignedImage, 0, 0, 0⟩, geom := .none, secCount := 0, sec := [] }) ∧
  (∀ s : State, s.imgLen.toNat % 16 = 0 → s.imgLen.toNat ≠ 1024 → s.imgLen.toNat ≠ 4096 → exec .resolve s = .next { s with
      status := { s.status with st := .error, layValid := false, illcmd := false }
      err := ⟨.unsupportedCardSize, 0, 0, 0⟩, geom := .none, secCount := 0, sec := [] })

/-- RESOLVE of a 1K or 4K image puts every sector's trailer and tiers into SEC, as the host reads them.
[44_sectorlayoutresolver.md R210, 44_sectorlayoutresolver.md R203, 44_sectorlayoutresolver.md R202, 20_memory.md
R68, 20_memory.md R70, 10_state.md R43] -/
def Obligations.ResolveBuildsTheSectorTable : Prop :=
  ∀ (s : State) (count : Nat),
    ((s.imgLen.toNat = 1024 ∧ count = 16) ∨ (s.imgLen.toNat = 4096 ∧ count = 40)) →
    ∃ t, exec .resolve s = .next t ∧
      t = { s with
        status := { s.status with st := .done, layValid := true, illcmd := false }
        err := ⟨.noError, 0, 0, 0⟩, geom := if count = 16 then .k1 else .k4, secCount := .ofNat 6 count, sec := t.sec } ∧
      (∀ k, k < count →
        (∀ j, j < 16 → t.readSec (32 * k + j) = s.readImg (16 * trailerBlockOf k + j)) ∧
        t.readSec (32 * k + 16) = tierCodeOf (readFieldOf (s.readImg (16 * trailerBlockOf k + 6))) ∧
        t.readSec (32 * k + 17) = tierCodeOf (writeFieldOf (s.readImg (16 * trailerBlockOf k + 6))) ∧
        t.readSec (32 * k + 18) =
          tierCodeOf (incDecFieldOf (s.readImg (16 * trailerBlockOf k + 6)) (s.readImg (16 * trailerBlockOf k + 7))) ∧
        (∀ j, 19 ≤ j → j < 32 → t.readSec (32 * k + j) = 0)) ∧
      (∀ a, 32 * count ≤ a → t.readSec a = 0)

/-- DECODE of a 1K or 4K text: block-0 registers from bytes 0 to 6, the image, and the layout of RESOLVE.
[45_cardimagedecoder.md R226, 45_cardimagedecoder.md R228, 45_cardimagedecoder.md R223, 45_cardimagedecoder.md
R224] -/
def Obligations.DecodeFillsBlock0AndLayout : Prop :=
  ∀ (s : State) (I : List Byte), parse s.text = .ok I → (I.length = 1024 ∨ I.length = 4096) →
    ∃ p r t, exec .parse s = .next p ∧ exec .resolve p = .next r ∧ exec .decode s = .next t ∧
      t = { r with
        status := { r.status with b0Valid := true }
        b0 := { uid0 := I.getD 0 0, uid1 := I.getD 1 0, uid2 := I.getD 2 0, uid3 := I.getD 3 0
                bcc := I.getD 4 0
                bccExp := I.getD 0 0 ^^^ I.getD 1 0 ^^^ I.getD 2 0 ^^^ I.getD 3 0
                bccOk := decide (I.getD 0 0 ^^^ I.getD 1 0 ^^^ I.getD 2 0 ^^^ I.getD 3 0 = I.getD 4 0)
                mfrCode := I.getD 5 0, mfrId := .ofNat 6 (mfrId (I.getD 5 0))
                year := .ofNat 16 (2000 + (I.getD 6 0).toNat / 16), week := .ofNat 4 ((I.getD 6 0).toNat % 16) } } ∧
      t.status.st = .done ∧ t.status.imgValid = true ∧ t.status.layValid = true ∧ t.status.illcmd = false ∧
      t.err = ⟨.noError, 0, 0, 0⟩ ∧ t.imgLen.toNat = I.length ∧ t.secCount.toNat = (if I.length = 1024 then 16 else 40) ∧
      t.arg = s.arg ∧ t.res = s.res ∧ t.status.resValid = s.status.resValid ∧ t.txt = s.txt ∧ t.txtLen = s.txtLen

/-- DECODE: which error each text gives, in pipeline order, and that the image is kept exactly when the parse
succeeded. [45_cardimagedecoder.md R228, 45_cardimagedecoder.md R222, 45_cardimagedecoder.md R229,
60_exceptions.md R257] -/
def Obligations.DecodeOutcomeOfEachError : Prop :=
  (∀ (s : State) (I : List Byte), parse s.text = .ok I → I.length ≠ 1024 → I.length ≠ 4096 → exec .decode s = .next { s with
      status := { s.status with st := .error, imgValid := true, b0Valid := false, layValid := false, illcmd := false }
      err := ⟨if I.length < 16 then .tooShortForBlock0 else if I.length % 16 ≠ 0 then .misalignedImage
        else .unsupportedCardSize, 0, 0, 0⟩
      imgLen := .ofNat 32 I.length, img := Memory.writeRange .img s.img 0 I
      b0 := .zero, geom := .none, secCount := 0, sec := [] }) ∧
  (∀ (s : State) (e : FormatError), parse s.text = .error e → exec .decode s = .next { s with
      status := { s.status with st := .error, imgValid := false, b0Valid := false, layValid := false, illcmd := false }
      err := (match e with
        | .invalidHexToken line off len => ⟨.invalidHexToken, .ofNat 32 line, .ofNat 32 off, .ofNat 32 len⟩
        | _ => ⟨.noBlockData, 0, 0, 0⟩)
      imgLen := 0, b0 := .zero, geom := .none, secCount := 0, sec := [] })

/-- B0_YEAR is 2000 plus the high nibble of byte 6 and B0_WEEK its low nibble, never clamped.
[45_cardimagedecoder.md R225, 10_state.md R35, 10_state.md R36] -/
def Obligations.YearAndWeekOfByte6 : Prop :=
  (∀ I : List Byte, (block0Of I).year.toNat = 2000 + (I.getD 6 0).toNat / 16 ∧
    (block0Of I).week.toNat = (I.getD 6 0).toNat % 16 ∧
    2000 ≤ (block0Of I).year.toNat ∧ (block0Of I).year.toNat ≤ 2015) ∧
  [0x00, 0x12, 0x9F, 0xFF].map (fun b => (productionYear b, productionWeek b)) =
    [(2000, 0), (2001, 2), (2009, 15), (2015, 15)]

/-- DECODE leaves the image that PARSE leaves, and on success the layout that PARSE then RESOLVE leave.
[45_cardimagedecoder.md R230] -/
def Obligations.DecodeMatchesParseThenResolve : Prop :=
  ∀ s : State, ∃ p r t, exec .parse s = .next p ∧ exec .resolve p = .next r ∧ exec .decode s = .next t ∧
    t.img = p.img ∧ t.imgLen = p.imgLen ∧ t.status.imgValid = p.status.imgValid ∧
    (t.err.code = .noError → t.geom = r.geom ∧ t.secCount = r.secCount ∧ t.sec = r.sec ∧
      t.status.layValid = r.status.layValid ∧ r.status.layValid = true) ∧
    r.b0 = .zero ∧ r.status.b0Valid = false ∧ r.err.code ≠ .tooShortForBlock0

/-- DECODE, PARSE and RESOLVE issued twice leave what they leave when issued once. [45_cardimagedecoder.md R230,
10_state.md R47, 70_reset_and_hazards.md R289] -/
def Obligations.DecodeTwiceIsDecodeOnce : Prop :=
  ∀ s : State, ∀ i ∈ [Instr.parse, .resolve, .decode], ∃ t, exec i s = .next t ∧ exec i t = .next t

/-- Two states with the same text decode to the same visible results, whatever else they hold. [10_state.md R47,
10_state.md R25, 40_hexblockparser.md R130, 70_reset_and_hazards.md R289] -/
def Obligations.DecodeDependsOnTheTextAlone : Prop :=
  ∀ s s' : State, (s.text = s'.text ∨
      (s.txtLen = s'.txtLen ∧ s.txtLen.toNat ≤ s.txtMax ∧ s'.txtLen.toNat ≤ s'.txtMax ∧
        ∀ a, a < s.txtLen.toNat → s.hostRead .txt a = s'.hostRead .txt a)) → ∃ t t', exec .decode s = .next t ∧ exec .decode s' = .next t' ∧
    { t.status with resValid := false } = { t'.status with resValid := false } ∧ t.err = t'.err ∧ t.imgLen = t'.imgLen ∧
    t.geom = t'.geom ∧ t.secCount = t'.secCount ∧ t.b0 = t'.b0 ∧
    (∀ a, t.readImg a = t'.readImg a) ∧ (∀ a, t.readSec a = t'.readSec a)

/-- TXT changes only by a host write to TXT or reset; TXT_LEN and ARG only by their writes, CLEAR or reset.
[10_state.md R25, 10_state.md R37, 10_state.md R41] -/
def Obligations.InputsChangeOnlyByTheirWrites : Prop :=
  ∀ (s t : State) (x : HostAccess) (rest : List HostAccess), s.pending = x :: rest → step s = .next t → x ≠ .reset →
    ((∀ a v, x ≠ .write .txt a v) → t.txt = s.txt) ∧
    ((∀ v, x ≠ .write .reg 0x06 v) → ¬ StartsCommand x .clear → t.txtLen = s.txtLen) ∧
    ((∀ a v, 0x18 ≤ a → a ≤ 0x1C → x ≠ .write .reg a v) → ¬ StartsCommand x .clear → t.arg = s.arg)

/-- RES changes only by the leaf commands; the image by PARSE, DECODE; B0_* by those; SEC, GEOM by RESOLVE too; or
CLEAR, reset. [10_state.md R38, 10_state.md R42, 10_state.md R43, 10_state.md R46] -/
def Obligations.ResultsChangeOnlyByTheirCommands : Prop :=
  ∀ (s t : State) (x : HostAccess) (rest : List HostAccess), s.pending = x :: rest → step s = .next t → x ≠ .reset →
    ¬ StartsCommand x .clear →
    ((∀ i ∈ [Instr.validate, .lookup, .accdec], ¬ StartsCommand x i) →
      t.res = s.res ∧ t.status.resValid = s.status.resValid) ∧
    ((∀ i ∈ [Instr.parse, .decode], ¬ StartsCommand x i) →
      t.img = s.img ∧ t.imgLen = s.imgLen ∧ t.status.imgValid = s.status.imgValid ∧ t.b0 = s.b0 ∧
      t.status.b0Valid = s.status.b0Valid) ∧
    ((∀ i ∈ [Instr.parse, .resolve, .decode], ¬ StartsCommand x i) →
      t.sec = s.sec ∧ t.secCount = s.secCount ∧ t.geom = s.geom ∧ t.status.layValid = s.status.layValid)

/-- The reset state satisfies the invariants of R48, the memory form and the result invariants. [10_state.md R48,
10_state.md R50] -/
def Obligations.ResetKeepsEveryInvariant : Prop :=
  Inv State.reset ∧ MemInv State.reset ∧ ResultInv State.reset

/-- Every step from every state that satisfies the invariants of R48 gives a state that satisfies them. [R48] -/
def Obligations.StepKeepsInvariants : Prop :=
  Inv State.reset ∧ ∀ s t : State, Inv s → step s = .next t → Inv t

/-- Every step keeps the three memories in canonical form and within their extent. [10_state.md R41, 10_state.md
R42, 10_state.md R43, 20_memory.md R81] -/
def Obligations.StepKeepsMemoryForm : Prop :=
  ∀ s t : State, Inv s → MemInv s → step s = .next t → MemInv t

/-- Every step keeps: B0_* and SEC describe the image in IMG while their flags are 1, and are zero while they are 0.
[10_state.md R22, 10_state.md R29, 10_state.md R31, 10_state.md R42, 70_reset_and_hazards.md R290] -/
def Obligations.StepKeepsResultsOfTheImage : Prop :=
  ∀ s t : State, ResultInv s → step s = .next t → ResultInv t
end

