-- ==== Sys2Proof/Laws/Memory.lean ====
section
/-! SUPPORT. The laws of memory: a read after a write, and that every memory operation keeps the canonical form. -/

namespace Sys2Proof.Machine

@[simp] theorem background_txt : background .txt = none := rfl
@[simp] theorem background_img : background .img = some 0 := rfl
@[simp] theorem background_sec : background .sec = some 0 := rfl
@[simp] theorem Memory.get?_nil (a : Nat) : Memory.get? [] a = none := rfl
@[simp] theorem Memory.read_nil (sp : Space) (a : Nat) : Memory.read sp [] a = background sp := by
  simp [Memory.read]

theorem Memory.get?_cons (k : Nat) (w : Byte) (m : Memory) (b : Nat) :
    Memory.get? ((k, w) :: m) b = if k = b then some w else Memory.get? m b := rfl

theorem Memory.get?_put (m : Memory) (a : Nat) (v : Byte) (b : Nat) :
    (Memory.put m a v).get? b = if b = a then some v else m.get? b := by
  induction m with
  | nil =>
    simp only [Memory.put, Memory.get?_cons, Memory.get?_nil]
    by_cases h : b = a
    · simp [h]
    · simp [h, Ne.symm h]
  | cons c m ih =>
    obtain ⟨k, w⟩ := c
    simp only [Memory.put]
    by_cases h1 : a < k
    · by_cases h : b = a
      · simp [h1, h, Memory.get?_cons]
      · simp [h1, h, Ne.symm h, Memory.get?_cons]
    · by_cases h2 : a = k
      · subst h2
        by_cases h : b = a
        · simp [h, Memory.get?_cons]
        · simp [h, Ne.symm h, Memory.get?_cons]
      · by_cases h3 : k = b
        · subst h3; simp [h1, h2, Ne.symm h2, Memory.get?_cons]
        · simp [h1, h2, h3, Memory.get?_cons, ih]

theorem Memory.get?_erase (m : Memory) (a b : Nat) :
    (Memory.erase m a).get? b = if b = a then none else m.get? b := by
  induction m with
  | nil => simp [Memory.erase, Memory.get?]
  | cons c m ih =>
    obtain ⟨k, w⟩ := c
    unfold Memory.erase at ih ⊢
    by_cases h : k = a
    · subst h
      by_cases hb : b = k
      · subst hb; simpa [List.filter_cons] using ih
      · simpa [List.filter_cons, Memory.get?_cons, hb, Ne.symm hb] using ih
    · by_cases hk : k = b
      · subst hk; simp [h, Memory.get?_cons]
      · simpa [List.filter_cons, h, hk, Memory.get?_cons] using ih

/-- A read after a write: the address written gives the value, every other address reads as before. -/
theorem Memory.read_write (sp : Space) (m : Memory) (a : Nat) (v : Byte) (b : Nat) :
    Memory.read sp (Memory.write sp m a v) b = if b = a then some v else Memory.read sp m b := by
  unfold Memory.read Memory.write
  split
  · rename_i h
    rw [Memory.get?_erase]; split <;> simp [h]
  · rw [Memory.get?_put]; split <;> simp

/-- A read after `MemWrite` of a sequence. -/
theorem Memory.read_writeRange (sp : Space) (m : Memory) (vs : List Byte) (a b : Nat) :
    Memory.read sp (Memory.writeRange sp m a vs) b =
      if a ≤ b ∧ b < a + vs.length then vs[b - a]? else Memory.read sp m b := by
  induction vs generalizing a with
  | nil => rw [if_neg (by simp)]; rfl
  | cons v vs ih =>
    simp only [Memory.writeRange, Memory.read_write, ih]
    by_cases h : b = a
    · subst h; simp
    · by_cases h2 : a + 1 ≤ b ∧ b < a + 1 + vs.length
      · rw [if_neg h, if_pos h2, if_pos (by simp; omega)]
        obtain ⟨k, hk⟩ : ∃ k, b - a = k + 1 := ⟨b - a - 1, by omega⟩
        rw [hk, List.getElem?_cons_succ, show b - (a + 1) = k by omega]
      · rw [if_neg h, if_neg h2, if_neg (by simp; omega)]

theorem Memory.mem_put {m : Memory} {a : Nat} {v : Byte} {c : Host.Cell} (h : c ∈ Memory.put m a v) :
    c = (a, v) ∨ c ∈ m := by
  induction m with
  | nil => simpa [Memory.put] using h
  | cons d m ih =>
    simp only [Memory.put] at h
    split at h
    · simpa using h
    · split at h
      · simp only [List.mem_cons] at h ⊢; tauto
      · simp only [List.mem_cons] at h ⊢
        rcases h with h | h
        · exact .inr (.inl h)
        · rcases ih h with h | h
          · exact .inl h
          · exact .inr (.inr h)

theorem Memory.put_rising {m : Memory} (h : m.Pairwise (fun c d => c.1 < d.1)) (a : Nat) (v : Byte) :
    (Memory.put m a v).Pairwise (fun c d => c.1 < d.1) := by
  induction m with
  | nil => simp [Memory.put]
  | cons d m ih =>
    obtain ⟨k, w⟩ := d
    rw [List.pairwise_cons] at h
    simp only [Memory.put]
    split
    · rename_i hk
      refine List.pairwise_cons.2 ⟨fun c hc => ?_, List.pairwise_cons.2 h⟩
      rcases List.mem_cons.1 hc with rfl | hc
      · exact hk
      · exact lt_trans hk (h.1 c hc)
    · split
      · rename_i hk; subst hk
        exact List.pairwise_cons.2 ⟨h.1, h.2⟩
      · refine List.pairwise_cons.2 ⟨fun c hc => ?_, ih h.2⟩
        rcases Memory.mem_put hc with rfl | hc
        · show k < a; omega
        · exact h.1 c hc

/-- A write keeps the canonical form. -/
theorem Memory.wf_write {sp : Space} {m : Memory} (h : Memory.wf sp m) (a : Nat) (v : Byte) :
    Memory.wf sp (Memory.write sp m a v) := by
  unfold Memory.write
  split
  · exact ⟨h.1.filter _, fun c hc => h.2 c (List.mem_of_mem_filter hc)⟩
  · rename_i hv
    refine ⟨Memory.put_rising h.1 a v, fun c hc => ?_⟩
    rcases Memory.mem_put hc with rfl | hc
    · exact hv
    · exact h.2 c hc

/-- `MemWrite` keeps the canonical form. -/
theorem Memory.wf_writeRange {sp : Space} {m : Memory} (h : Memory.wf sp m) (a : Nat) (vs : List Byte) :
    Memory.wf sp (Memory.writeRange sp m a vs) := by
  induction vs generalizing a with
  | nil => exact h
  | cons v vs ih => exact Memory.wf_write (ih (a + 1)) a v

theorem Memory.wf_nil (sp : Space) : Memory.wf sp [] := ⟨.nil, by simp⟩

/-- A write at an address below a bound keeps every listed address below it. -/
theorem Memory.below_write {sp : Space} {m : Memory} {n a : Nat} (h : m.below n) (ha : a < n) (v : Byte) :
    Memory.below (Memory.write sp m a v) n := by
  unfold Memory.write
  split
  · exact fun c hc => h c (List.mem_of_mem_filter hc)
  · intro c hc
    rcases Memory.mem_put hc with rfl | hc
    · exact ha
    · exact h c hc

theorem Memory.below_writeRange {sp : Space} {m : Memory} {n : Nat} (h : m.below n) (a : Nat) (vs : List Byte)
    (ha : a + vs.length ≤ n) : Memory.below (Memory.writeRange sp m a vs) n := by
  induction vs generalizing a with
  | nil => exact h
  | cons v vs ih =>
    simp only [List.length_cons] at ha
    exact Memory.below_write (ih (a + 1) (by omega)) (by omega) v

/-- The byte of `IMG` after an image has been stored: the image below its length, the old cell above. -/
theorem imgByte_storeImage (s : State) (I : List Byte) (a : Nat) :
    (s.storeImage I).imgByte a = if a < I.length then I.getD a 0 else s.imgByte a := by
  simp only [State.imgByte, State.storeImage, Memory.read_writeRange, Nat.zero_le, true_and, Nat.zero_add, Nat.sub_zero]
  split <;> simp [List.getD_eq_getElem?_getD]

/-- An image that fits the length register is read back whole. -/
theorem image_storeImage (s : State) (I : List Byte) (h : I.length < 2 ^ 32) : (s.storeImage I).image = I := by
  have hlen : (s.storeImage I).imgLen.toNat = I.length := by
    simp only [State.storeImage, BitVec.toNat_ofNat]; exact Nat.mod_eq_of_lt h
  apply List.ext_getElem
  · simp [State.image, hlen]
  · intro k h1 h2
    simp only [State.image, List.getElem_map, List.getElem_range, imgByte_storeImage, if_pos h2]
    simp [List.getD_eq_getElem?_getD, h2]

end Sys2Proof.Machine
end

