-- ==== Sys2Proof/Laws/State.lean ====
section
/-! SUPPORT. One lemma per field of `State` for every named update, each true by unfolding, so that no later proof
unfolds a record update. -/

namespace Sys2Proof.Machine

section
variable (s : State)

/-! `beginCommand` -/

@[simp] theorem beginCommand_status : s.beginCommand.status = { s.status with illcmd := false } := rfl
@[simp] theorem beginCommand_err : s.beginCommand.err = .clear := rfl
@[simp] theorem beginCommand_txtLen : s.beginCommand.txtLen = s.txtLen := rfl
@[simp] theorem beginCommand_imgLen : s.beginCommand.imgLen = s.imgLen := rfl
@[simp] theorem beginCommand_geom : s.beginCommand.geom = s.geom := rfl
@[simp] theorem beginCommand_secCount : s.beginCommand.secCount = s.secCount := rfl
@[simp] theorem beginCommand_b0 : s.beginCommand.b0 = s.b0 := rfl
@[simp] theorem beginCommand_arg : s.beginCommand.arg = s.arg := rfl
@[simp] theorem beginCommand_res : s.beginCommand.res = s.res := rfl
@[simp] theorem beginCommand_txt : s.beginCommand.txt = s.txt := rfl
@[simp] theorem beginCommand_img : s.beginCommand.img = s.img := rfl
@[simp] theorem beginCommand_sec : s.beginCommand.sec = s.sec := rfl
@[simp] theorem beginCommand_txtMax : s.beginCommand.txtMax = s.txtMax := rfl
@[simp] theorem beginCommand_txtEpoch : s.beginCommand.txtEpoch = s.txtEpoch := rfl
@[simp] theorem beginCommand_pending : s.beginCommand.pending = s.pending := rfl
@[simp] theorem beginCommand_readData : s.beginCommand.readData = s.readData := rfl

/-! `dropImage` -/

@[simp] theorem dropImage_status : s.dropImage.status = { s.status with imgValid := false } := rfl
@[simp] theorem dropImage_err : s.dropImage.err = s.err := rfl
@[simp] theorem dropImage_txtLen : s.dropImage.txtLen = s.txtLen := rfl
@[simp] theorem dropImage_imgLen : s.dropImage.imgLen = 0 := rfl
@[simp] theorem dropImage_geom : s.dropImage.geom = s.geom := rfl
@[simp] theorem dropImage_secCount : s.dropImage.secCount = s.secCount := rfl
@[simp] theorem dropImage_b0 : s.dropImage.b0 = s.b0 := rfl
@[simp] theorem dropImage_arg : s.dropImage.arg = s.arg := rfl
@[simp] theorem dropImage_res : s.dropImage.res = s.res := rfl
@[simp] theorem dropImage_txt : s.dropImage.txt = s.txt := rfl
@[simp] theorem dropImage_img : s.dropImage.img = s.img := rfl
@[simp] theorem dropImage_sec : s.dropImage.sec = s.sec := rfl
@[simp] theorem dropImage_txtMax : s.dropImage.txtMax = s.txtMax := rfl
@[simp] theorem dropImage_txtEpoch : s.dropImage.txtEpoch = s.txtEpoch := rfl
@[simp] theorem dropImage_pending : s.dropImage.pending = s.pending := rfl
@[simp] theorem dropImage_readData : s.dropImage.readData = s.readData := rfl

/-! `dropBlock0` -/

@[simp] theorem dropBlock0_status : s.dropBlock0.status = { s.status with b0Valid := false } := rfl
@[simp] theorem dropBlock0_err : s.dropBlock0.err = s.err := rfl
@[simp] theorem dropBlock0_txtLen : s.dropBlock0.txtLen = s.txtLen := rfl
@[simp] theorem dropBlock0_imgLen : s.dropBlock0.imgLen = s.imgLen := rfl
@[simp] theorem dropBlock0_geom : s.dropBlock0.geom = s.geom := rfl
@[simp] theorem dropBlock0_secCount : s.dropBlock0.secCount = s.secCount := rfl
@[simp] theorem dropBlock0_b0 : s.dropBlock0.b0 = .zero := rfl
@[simp] theorem dropBlock0_arg : s.dropBlock0.arg = s.arg := rfl
@[simp] theorem dropBlock0_res : s.dropBlock0.res = s.res := rfl
@[simp] theorem dropBlock0_txt : s.dropBlock0.txt = s.txt := rfl
@[simp] theorem dropBlock0_img : s.dropBlock0.img = s.img := rfl
@[simp] theorem dropBlock0_sec : s.dropBlock0.sec = s.sec := rfl
@[simp] theorem dropBlock0_txtMax : s.dropBlock0.txtMax = s.txtMax := rfl
@[simp] theorem dropBlock0_txtEpoch : s.dropBlock0.txtEpoch = s.txtEpoch := rfl
@[simp] theorem dropBlock0_pending : s.dropBlock0.pending = s.pending := rfl
@[simp] theorem dropBlock0_readData : s.dropBlock0.readData = s.readData := rfl

/-! `dropLayout` -/

@[simp] theorem dropLayout_status : s.dropLayout.status = { s.status with layValid := false } := rfl
@[simp] theorem dropLayout_err : s.dropLayout.err = s.err := rfl
@[simp] theorem dropLayout_txtLen : s.dropLayout.txtLen = s.txtLen := rfl
@[simp] theorem dropLayout_imgLen : s.dropLayout.imgLen = s.imgLen := rfl
@[simp] theorem dropLayout_geom : s.dropLayout.geom = .none := rfl
@[simp] theorem dropLayout_secCount : s.dropLayout.secCount = 0 := rfl
@[simp] theorem dropLayout_b0 : s.dropLayout.b0 = s.b0 := rfl
@[simp] theorem dropLayout_arg : s.dropLayout.arg = s.arg := rfl
@[simp] theorem dropLayout_res : s.dropLayout.res = s.res := rfl
@[simp] theorem dropLayout_txt : s.dropLayout.txt = s.txt := rfl
@[simp] theorem dropLayout_img : s.dropLayout.img = s.img := rfl
@[simp] theorem dropLayout_sec : s.dropLayout.sec = [] := rfl
@[simp] theorem dropLayout_txtMax : s.dropLayout.txtMax = s.txtMax := rfl
@[simp] theorem dropLayout_txtEpoch : s.dropLayout.txtEpoch = s.txtEpoch := rfl
@[simp] theorem dropLayout_pending : s.dropLayout.pending = s.pending := rfl
@[simp] theorem dropLayout_readData : s.dropLayout.readData = s.readData := rfl

/-! `markDone` -/

@[simp] theorem markDone_status : s.markDone.status = { s.status with st := .done } := rfl
@[simp] theorem markDone_err : s.markDone.err = s.err := rfl
@[simp] theorem markDone_txtLen : s.markDone.txtLen = s.txtLen := rfl
@[simp] theorem markDone_imgLen : s.markDone.imgLen = s.imgLen := rfl
@[simp] theorem markDone_geom : s.markDone.geom = s.geom := rfl
@[simp] theorem markDone_secCount : s.markDone.secCount = s.secCount := rfl
@[simp] theorem markDone_b0 : s.markDone.b0 = s.b0 := rfl
@[simp] theorem markDone_arg : s.markDone.arg = s.arg := rfl
@[simp] theorem markDone_res : s.markDone.res = s.res := rfl
@[simp] theorem markDone_txt : s.markDone.txt = s.txt := rfl
@[simp] theorem markDone_img : s.markDone.img = s.img := rfl
@[simp] theorem markDone_sec : s.markDone.sec = s.sec := rfl
@[simp] theorem markDone_txtMax : s.markDone.txtMax = s.txtMax := rfl
@[simp] theorem markDone_txtEpoch : s.markDone.txtEpoch = s.txtEpoch := rfl
@[simp] theorem markDone_pending : s.markDone.pending = s.pending := rfl
@[simp] theorem markDone_readData : s.markDone.readData = s.readData := rfl

/-! `setIllcmd` -/

@[simp] theorem setIllcmd_status : s.setIllcmd.status = { s.status with illcmd := true } := rfl
@[simp] theorem setIllcmd_err : s.setIllcmd.err = s.err := rfl
@[simp] theorem setIllcmd_txtLen : s.setIllcmd.txtLen = s.txtLen := rfl
@[simp] theorem setIllcmd_imgLen : s.setIllcmd.imgLen = s.imgLen := rfl
@[simp] theorem setIllcmd_geom : s.setIllcmd.geom = s.geom := rfl
@[simp] theorem setIllcmd_secCount : s.setIllcmd.secCount = s.secCount := rfl
@[simp] theorem setIllcmd_b0 : s.setIllcmd.b0 = s.b0 := rfl
@[simp] theorem setIllcmd_arg : s.setIllcmd.arg = s.arg := rfl
@[simp] theorem setIllcmd_res : s.setIllcmd.res = s.res := rfl
@[simp] theorem setIllcmd_txt : s.setIllcmd.txt = s.txt := rfl
@[simp] theorem setIllcmd_img : s.setIllcmd.img = s.img := rfl
@[simp] theorem setIllcmd_sec : s.setIllcmd.sec = s.sec := rfl
@[simp] theorem setIllcmd_txtMax : s.setIllcmd.txtMax = s.txtMax := rfl
@[simp] theorem setIllcmd_txtEpoch : s.setIllcmd.txtEpoch = s.txtEpoch := rfl
@[simp] theorem setIllcmd_pending : s.setIllcmd.pending = s.pending := rfl
@[simp] theorem setIllcmd_readData : s.setIllcmd.readData = s.readData := rfl

/-! `raise` -/

@[simp] theorem raise_status (e : FormatError) : (State.raise e s).status = { s.status with st := .error } := rfl
@[simp] theorem raise_err (e : FormatError) : (State.raise e s).err = s.err.record e := rfl
@[simp] theorem raise_txtLen (e : FormatError) : (State.raise e s).txtLen = s.txtLen := rfl
@[simp] theorem raise_imgLen (e : FormatError) : (State.raise e s).imgLen = s.imgLen := rfl
@[simp] theorem raise_geom (e : FormatError) : (State.raise e s).geom = s.geom := rfl
@[simp] theorem raise_secCount (e : FormatError) : (State.raise e s).secCount = s.secCount := rfl
@[simp] theorem raise_b0 (e : FormatError) : (State.raise e s).b0 = s.b0 := rfl
@[simp] theorem raise_arg (e : FormatError) : (State.raise e s).arg = s.arg := rfl
@[simp] theorem raise_res (e : FormatError) : (State.raise e s).res = s.res := rfl
@[simp] theorem raise_txt (e : FormatError) : (State.raise e s).txt = s.txt := rfl
@[simp] theorem raise_img (e : FormatError) : (State.raise e s).img = s.img := rfl
@[simp] theorem raise_sec (e : FormatError) : (State.raise e s).sec = s.sec := rfl
@[simp] theorem raise_txtMax (e : FormatError) : (State.raise e s).txtMax = s.txtMax := rfl
@[simp] theorem raise_txtEpoch (e : FormatError) : (State.raise e s).txtEpoch = s.txtEpoch := rfl
@[simp] theorem raise_pending (e : FormatError) : (State.raise e s).pending = s.pending := rfl
@[simp] theorem raise_readData (e : FormatError) : (State.raise e s).readData = s.readData := rfl

/-! `setRes` -/

@[simp] theorem setRes_status (a b c : Byte) : (State.setRes a b c s).status = { s.status with resValid := true, st := .done } := rfl
@[simp] theorem setRes_err (a b c : Byte) : (State.setRes a b c s).err = s.err := rfl
@[simp] theorem setRes_txtLen (a b c : Byte) : (State.setRes a b c s).txtLen = s.txtLen := rfl
@[simp] theorem setRes_imgLen (a b c : Byte) : (State.setRes a b c s).imgLen = s.imgLen := rfl
@[simp] theorem setRes_geom (a b c : Byte) : (State.setRes a b c s).geom = s.geom := rfl
@[simp] theorem setRes_secCount (a b c : Byte) : (State.setRes a b c s).secCount = s.secCount := rfl
@[simp] theorem setRes_b0 (a b c : Byte) : (State.setRes a b c s).b0 = s.b0 := rfl
@[simp] theorem setRes_arg (a b c : Byte) : (State.setRes a b c s).arg = s.arg := rfl
@[simp] theorem setRes_res (a b c : Byte) : (State.setRes a b c s).res = ⟨a, b, c⟩ := rfl
@[simp] theorem setRes_txt (a b c : Byte) : (State.setRes a b c s).txt = s.txt := rfl
@[simp] theorem setRes_img (a b c : Byte) : (State.setRes a b c s).img = s.img := rfl
@[simp] theorem setRes_sec (a b c : Byte) : (State.setRes a b c s).sec = s.sec := rfl
@[simp] theorem setRes_txtMax (a b c : Byte) : (State.setRes a b c s).txtMax = s.txtMax := rfl
@[simp] theorem setRes_txtEpoch (a b c : Byte) : (State.setRes a b c s).txtEpoch = s.txtEpoch := rfl
@[simp] theorem setRes_pending (a b c : Byte) : (State.setRes a b c s).pending = s.pending := rfl
@[simp] theorem setRes_readData (a b c : Byte) : (State.setRes a b c s).readData = s.readData := rfl

/-! `storeImage` -/

@[simp] theorem storeImage_status (I : List Byte) : (State.storeImage I s).status = { s.status with imgValid := true } := rfl
@[simp] theorem storeImage_err (I : List Byte) : (State.storeImage I s).err = s.err := rfl
@[simp] theorem storeImage_txtLen (I : List Byte) : (State.storeImage I s).txtLen = s.txtLen := rfl
@[simp] theorem storeImage_imgLen (I : List Byte) : (State.storeImage I s).imgLen = .ofNat 32 I.length := rfl
@[simp] theorem storeImage_geom (I : List Byte) : (State.storeImage I s).geom = s.geom := rfl
@[simp] theorem storeImage_secCount (I : List Byte) : (State.storeImage I s).secCount = s.secCount := rfl
@[simp] theorem storeImage_b0 (I : List Byte) : (State.storeImage I s).b0 = s.b0 := rfl
@[simp] theorem storeImage_arg (I : List Byte) : (State.storeImage I s).arg = s.arg := rfl
@[simp] theorem storeImage_res (I : List Byte) : (State.storeImage I s).res = s.res := rfl
@[simp] theorem storeImage_txt (I : List Byte) : (State.storeImage I s).txt = s.txt := rfl
@[simp] theorem storeImage_img (I : List Byte) : (State.storeImage I s).img = Memory.writeRange .img s.img 0 I := rfl
@[simp] theorem storeImage_sec (I : List Byte) : (State.storeImage I s).sec = s.sec := rfl
@[simp] theorem storeImage_txtMax (I : List Byte) : (State.storeImage I s).txtMax = s.txtMax := rfl
@[simp] theorem storeImage_txtEpoch (I : List Byte) : (State.storeImage I s).txtEpoch = s.txtEpoch := rfl
@[simp] theorem storeImage_pending (I : List Byte) : (State.storeImage I s).pending = s.pending := rfl
@[simp] theorem storeImage_readData (I : List Byte) : (State.storeImage I s).readData = s.readData := rfl

/-! `storeBlock0` -/

@[simp] theorem storeBlock0_status (r : Block0Regs) : (State.storeBlock0 r s).status = { s.status with b0Valid := true } := rfl
@[simp] theorem storeBlock0_err (r : Block0Regs) : (State.storeBlock0 r s).err = s.err := rfl
@[simp] theorem storeBlock0_txtLen (r : Block0Regs) : (State.storeBlock0 r s).txtLen = s.txtLen := rfl
@[simp] theorem storeBlock0_imgLen (r : Block0Regs) : (State.storeBlock0 r s).imgLen = s.imgLen := rfl
@[simp] theorem storeBlock0_geom (r : Block0Regs) : (State.storeBlock0 r s).geom = s.geom := rfl
@[simp] theorem storeBlock0_secCount (r : Block0Regs) : (State.storeBlock0 r s).secCount = s.secCount := rfl
@[simp] theorem storeBlock0_b0 (r : Block0Regs) : (State.storeBlock0 r s).b0 = r := rfl
@[simp] theorem storeBlock0_arg (r : Block0Regs) : (State.storeBlock0 r s).arg = s.arg := rfl
@[simp] theorem storeBlock0_res (r : Block0Regs) : (State.storeBlock0 r s).res = s.res := rfl
@[simp] theorem storeBlock0_txt (r : Block0Regs) : (State.storeBlock0 r s).txt = s.txt := rfl
@[simp] theorem storeBlock0_img (r : Block0Regs) : (State.storeBlock0 r s).img = s.img := rfl
@[simp] theorem storeBlock0_sec (r : Block0Regs) : (State.storeBlock0 r s).sec = s.sec := rfl
@[simp] theorem storeBlock0_txtMax (r : Block0Regs) : (State.storeBlock0 r s).txtMax = s.txtMax := rfl
@[simp] theorem storeBlock0_txtEpoch (r : Block0Regs) : (State.storeBlock0 r s).txtEpoch = s.txtEpoch := rfl
@[simp] theorem storeBlock0_pending (r : Block0Regs) : (State.storeBlock0 r s).pending = s.pending := rfl
@[simp] theorem storeBlock0_readData (r : Block0Regs) : (State.storeBlock0 r s).readData = s.readData := rfl

/-! `storeLayout` -/

@[simp] theorem storeLayout_status (l : CardLayout) : (State.storeLayout l s).status = { s.status with layValid := true } := rfl
@[simp] theorem storeLayout_err (l : CardLayout) : (State.storeLayout l s).err = s.err := rfl
@[simp] theorem storeLayout_txtLen (l : CardLayout) : (State.storeLayout l s).txtLen = s.txtLen := rfl
@[simp] theorem storeLayout_imgLen (l : CardLayout) : (State.storeLayout l s).imgLen = s.imgLen := rfl
@[simp] theorem storeLayout_geom (l : CardLayout) : (State.storeLayout l s).geom = if l.blocks = 64 then .k1 else .k4 := rfl
@[simp] theorem storeLayout_secCount (l : CardLayout) : (State.storeLayout l s).secCount = .ofNat 6 l.sectors.length := rfl
@[simp] theorem storeLayout_b0 (l : CardLayout) : (State.storeLayout l s).b0 = s.b0 := rfl
@[simp] theorem storeLayout_arg (l : CardLayout) : (State.storeLayout l s).arg = s.arg := rfl
@[simp] theorem storeLayout_res (l : CardLayout) : (State.storeLayout l s).res = s.res := rfl
@[simp] theorem storeLayout_txt (l : CardLayout) : (State.storeLayout l s).txt = s.txt := rfl
@[simp] theorem storeLayout_img (l : CardLayout) : (State.storeLayout l s).img = s.img := rfl
@[simp] theorem storeLayout_sec (l : CardLayout) : (State.storeLayout l s).sec = l.sectors.foldl writeEntry s.sec := rfl
@[simp] theorem storeLayout_txtMax (l : CardLayout) : (State.storeLayout l s).txtMax = s.txtMax := rfl
@[simp] theorem storeLayout_txtEpoch (l : CardLayout) : (State.storeLayout l s).txtEpoch = s.txtEpoch := rfl
@[simp] theorem storeLayout_pending (l : CardLayout) : (State.storeLayout l s).pending = s.pending := rfl
@[simp] theorem storeLayout_readData (l : CardLayout) : (State.storeLayout l s).readData = s.readData := rfl

/-! `hostReset` -/

@[simp] theorem hostReset_status : s.hostReset.status = State.reset.status := rfl
@[simp] theorem hostReset_err : s.hostReset.err = State.reset.err := rfl
@[simp] theorem hostReset_txtLen : s.hostReset.txtLen = State.reset.txtLen := rfl
@[simp] theorem hostReset_imgLen : s.hostReset.imgLen = State.reset.imgLen := rfl
@[simp] theorem hostReset_geom : s.hostReset.geom = State.reset.geom := rfl
@[simp] theorem hostReset_secCount : s.hostReset.secCount = State.reset.secCount := rfl
@[simp] theorem hostReset_b0 : s.hostReset.b0 = State.reset.b0 := rfl
@[simp] theorem hostReset_arg : s.hostReset.arg = State.reset.arg := rfl
@[simp] theorem hostReset_res : s.hostReset.res = State.reset.res := rfl
@[simp] theorem hostReset_txt : s.hostReset.txt = State.reset.txt := rfl
@[simp] theorem hostReset_img : s.hostReset.img = State.reset.img := rfl
@[simp] theorem hostReset_sec : s.hostReset.sec = State.reset.sec := rfl
@[simp] theorem hostReset_txtMax : s.hostReset.txtMax = s.txtMax := rfl
@[simp] theorem hostReset_txtEpoch : s.hostReset.txtEpoch = s.txtEpoch + 1 := rfl
@[simp] theorem hostReset_pending : s.hostReset.pending = s.pending := rfl
@[simp] theorem hostReset_readData : s.hostReset.readData = s.readData := rfl

/-! `clearAll` -/

@[simp] theorem clearAll_status : s.clearAll.status = State.reset.status := rfl
@[simp] theorem clearAll_err : s.clearAll.err = State.reset.err := rfl
@[simp] theorem clearAll_txtLen : s.clearAll.txtLen = State.reset.txtLen := rfl
@[simp] theorem clearAll_imgLen : s.clearAll.imgLen = State.reset.imgLen := rfl
@[simp] theorem clearAll_geom : s.clearAll.geom = State.reset.geom := rfl
@[simp] theorem clearAll_secCount : s.clearAll.secCount = State.reset.secCount := rfl
@[simp] theorem clearAll_b0 : s.clearAll.b0 = State.reset.b0 := rfl
@[simp] theorem clearAll_arg : s.clearAll.arg = State.reset.arg := rfl
@[simp] theorem clearAll_res : s.clearAll.res = State.reset.res := rfl
@[simp] theorem clearAll_txt : s.clearAll.txt = s.txt := rfl
@[simp] theorem clearAll_img : s.clearAll.img = s.img := rfl
@[simp] theorem clearAll_sec : s.clearAll.sec = State.reset.sec := rfl
@[simp] theorem clearAll_txtMax : s.clearAll.txtMax = s.txtMax := rfl
@[simp] theorem clearAll_txtEpoch : s.clearAll.txtEpoch = s.txtEpoch := rfl
@[simp] theorem clearAll_pending : s.clearAll.pending = s.pending := rfl
@[simp] theorem clearAll_readData : s.clearAll.readData = s.readData := rfl

end

end Sys2Proof.Machine
end

