-- ==== Sys2Proof/Laws/Exec.lean ====
section
/-! SUPPORT. Everything an operation, an access and a step can do, said once: each lemma takes a next state and says which
named updates made it, so that a proof about every step is a case analysis over named states. -/

namespace Sys2Proof.Machine

/-! The meanings of the commands. -/

section
variable (s : State)

theorem exec_clear : exec .clear s = .next s.clearAll := rfl
theorem exec_validate : exec .validate s = .next (s.leafResult
    (boolByte (validate s.arg.a0 s.arg.a1 s.arg.a2 s.arg.a3 s.arg.a4).1)
    (validate s.arg.a0 s.arg.a1 s.arg.a2 s.arg.a3 s.arg.a4).2 0) := rfl
theorem exec_lookup : exec .lookup s = .next (s.lookupEntry (mfrId s.arg.a0)) := rfl
theorem exec_accdec : exec .accdec s = .next (s.accResult s.argConditions) := rfl

end

/-- `PARSE`: the image stored, or the error raised. -/
theorem execParse_cases (s : State) :
    (∃ I, parse s.text = .ok I ∧ exec .parse s = .next (s.startImage.storeImage I).markDone) ∨
    (∃ e, parse s.text = .error e ∧ exec .parse s = .next (s.startImage.raise e)) := by
  cases h : parse s.text with
  | ok I => exact .inl ⟨I, rfl, by simp [exec, execParse, h]⟩
  | error e => exact .inr ⟨e, rfl, by simp [exec, execParse, h]⟩

/-- `RESOLVE`: the layout stored, or the error raised. -/
theorem execResolve_cases (s : State) :
    (∃ lay, resolve s.image = .ok lay ∧ exec .resolve s = .next (s.startLayout.storeLayout lay).markDone) ∨
    (∃ e, resolve s.image = .error e ∧ exec .resolve s = .next (s.startLayout.raise e)) := by
  cases h : resolve s.image with
  | ok lay => exact .inl ⟨lay, rfl, by simp [exec, execResolve, h]⟩
  | error e => exact .inr ⟨e, rfl, by simp [exec, execResolve, h]⟩

/-- `DECODE`: everything stored; or the image stored and the error of a later stage raised; or the parse error raised. -/
theorem execDecode_cases (s : State) :
    (∃ I lay, parse s.text = .ok I ∧ ¬ I.length < 16 ∧ resolve I = .ok lay ∧ exec .decode s =
      .next (((s.startImage.storeImage I).storeBlock0 (block0Of I)).storeLayout lay).markDone) ∨
    (∃ I e, parse s.text = .ok I ∧ decodeImage I = .error e ∧
      exec .decode s = .next ((s.startImage.storeImage I).raise e)) ∨
    (∃ e, parse s.text = .error e ∧ exec .decode s = .next (s.startImage.raise e)) := by
  cases hp : parse s.text with
  | error e => exact .inr (.inr ⟨e, rfl, by simp [exec, execDecode, decodeText, hp, State.storeImageIf]⟩)
  | ok I =>
    by_cases h16 : I.length < 16
    · exact .inr (.inl ⟨I, .tooShortForBlock0, rfl, by simp [decodeImage, h16],
        by simp [exec, execDecode, decodeText, hp, decodeImage, h16, State.storeImageIf]⟩)
    · cases hr : resolve I with
      | error e => exact .inr (.inl ⟨I, e, rfl, by simp [decodeImage, h16, hr],
          by simp [exec, execDecode, decodeText, hp, decodeImage, h16, hr, State.storeImageIf]⟩)
      | ok lay => exact .inl ⟨I, lay, rfl, h16, hr,
          by simp [exec, execDecode, decodeText, hp, decodeImage, h16, hr, State.storeImageIf]⟩

/-- `Resolve`: only images of 1024 and 4096 bytes have a layout. -/
theorem resolve_cases (I : List Byte) :
    (I.length % 16 ≠ 0 ∧ resolve I = .error .misalignedImage) ∨
    (I.length % 16 = 0 ∧ I.length ≠ 1024 ∧ I.length ≠ 4096 ∧ resolve I = .error .unsupportedCardSize) ∨
    ((I.length = 1024 ∨ I.length = 4096) ∧
      resolve I = .ok ⟨I.length / 16, (sectorPartition (I.length / 16)).map (fun x => trailer I x.s x.tb)⟩) := by
  have h : resolve I = if I.length % 16 ≠ 0 then .error .misalignedImage
      else if I.length / 16 ≠ 64 ∧ I.length / 16 ≠ 256 then .error .unsupportedCardSize
      else .ok ⟨I.length / 16, (sectorPartition (I.length / 16)).map (fun x => trailer I x.s x.tb)⟩ := rfl
  by_cases h1 : I.length % 16 ≠ 0
  · exact .inl ⟨h1, by rw [h, if_pos h1]⟩
  · by_cases h2 : I.length / 16 ≠ 64 ∧ I.length / 16 ≠ 256
    · exact .inr (.inl ⟨by omega, by omega, by omega, by rw [h, if_neg h1, if_pos h2]⟩)
    · exact .inr (.inr ⟨by omega, by rw [h, if_neg h1, if_neg h2]⟩)

/-- The words of `CMD`: a legal command, or a row of the illegal words (R107, R108). -/
theorem decodeCmd_cases (w : Byte) :
    decodeCmd w ∈ [Instr.clear, .parse, .validate, .lookup, .accdec, .resolve, .decode, .illegalOpc7, .illegalBit3 w,
      .illegalBit4 w, .illegalBit5 w, .illegalBit6 w, .illegalBit7 w] := by
  unfold decodeCmd
  repeat' split
  all_goals simp

/-- What a write of a word to `CMD` can do. -/
theorem execCmd_cases (w : Byte) (s : State) :
    (exec (decodeCmd w) s = .next s.setIllcmd) ∨
    (decodeCmd w = .clear ∧ exec (decodeCmd w) s = .next s.clearAll) ∨
    (decodeCmd w ∈ [Instr.validate, .lookup, .accdec] ∧
      ∃ r0 r1 r2, exec (decodeCmd w) s = .next (s.leafResult r0 r1 r2)) ∨
    decodeCmd w = .parse ∨ decodeCmd w = .resolve ∨ decodeCmd w = .decode := by
  have h := decodeCmd_cases w
  simp only [List.mem_cons, List.not_mem_nil, or_false] at h
  rcases h with h | h | h | h | h | h | h | h | h | h | h | h | h <;> rw [h]
  · exact .inr (.inl ⟨rfl, rfl⟩)
  · simp
  · exact .inr (.inr (.inl ⟨by simp, _, _, _, rfl⟩))
  · exact .inr (.inr (.inl ⟨by simp, _, _, _, rfl⟩))
  · exact .inr (.inr (.inl ⟨by simp, _, _, _, rfl⟩))
  · simp
  · simp
  all_goals exact .inl rfl

/-! The port. -/

/-- The five writable register groups, and every other number, which ignores the write (R21, R25, R37, R39). -/
theorem writeReg_cases (a : Nat) (v : Word) (s : State) :
    (a = 0x00 ∧ s.writeReg a v = exec (decodeCmd (cmdWord v)) s) ∨
    (a = 0x06 ∧ s.writeReg a v = .next (s.writeTxtLen v)) ∨
    ((0x18 ≤ a ∧ a ≤ 0x1C) ∧ ∃ arg, s.writeReg a v = .next { s with arg := arg }) ∨
    (a ≠ 0x00 ∧ a ≠ 0x06 ∧ ¬ (0x18 ≤ a ∧ a ≤ 0x1C) ∧ s.writeReg a v = .next s) := by
  unfold State.writeReg
  split
  · exact .inl ⟨rfl, rfl⟩
  · exact .inr (.inl ⟨rfl, rfl⟩)
  iterate 5 exact .inr (.inr (.inl ⟨by omega, _, rfl⟩))
  · rename_i h0 h6 h18 h19 h1A h1B h1C
    refine .inr (.inr (.inr ⟨h0, h6, fun h => ?_, rfl⟩))
    have : a = 0x18 ∨ a = 0x19 ∨ a = 0x1A ∨ a = 0x1B ∨ a = 0x1C := by omega
    tauto

/-- What one access can do: the reset event, a read, or a write to one of the writable places; else nothing. -/
theorem access_cases (x : HostAccess) (s : State) :
    (x = .reset ∧ s.access x = .next s.hostReset) ∨
    (∃ sp a, x = .read sp a ∧ s.access x = .next { s with readData := s.hostRead sp a }) ∨
    (∃ a v, x = .write .txt a v ∧ s.access x = .next (s.writeTxt a (v.setWidth 8))) ∨
    (∃ v, x = .write .reg 0x06 v ∧ s.access x = .next (s.writeTxtLen v)) ∨
    (∃ a v arg, x = .write .reg a v ∧ 0x18 ≤ a ∧ a ≤ 0x1C ∧ s.access x = .next { s with arg := arg }) ∨
    (∃ v, x = .write .reg 0x00 v ∧ s.access x = exec (decodeCmd (cmdWord v)) s) ∨
    ((∃ sp a v, x = .write sp a v ∧ sp ≠ .txt ∧ ¬ (sp = .reg ∧ (a = 0x00 ∨ a = 0x06 ∨ (0x18 ≤ a ∧ a ≤ 0x1C)))) ∧
      s.access x = .next s) := by
  cases x with
  | reset => exact .inl ⟨rfl, rfl⟩
  | read sp a => exact .inr (.inl ⟨sp, a, rfl, rfl⟩)
  | write sp a v =>
    cases sp with
    | reg =>
      rcases writeReg_cases a v s with ⟨rfl, h⟩ | ⟨rfl, h⟩ | ⟨ha, arg, h⟩ | ⟨h0, h6, h18, h⟩
      · exact .inr (.inr (.inr (.inr (.inr (.inl ⟨v, rfl, h⟩)))))
      · exact .inr (.inr (.inr (.inl ⟨v, rfl, h⟩)))
      · exact .inr (.inr (.inr (.inr (.inl ⟨a, v, arg, rfl, ha.1, ha.2, h⟩))))
      · refine .inr (.inr (.inr (.inr (.inr (.inr ⟨⟨_, _, _, rfl, by simp, ?_⟩, h⟩)))))
        rintro ⟨-, h | h | h⟩
        · exact h0 h
        · exact h6 h
        · exact h18 h
    | txt => exact .inr (.inr (.inl ⟨a, v, rfl, rfl⟩))
    | img => exact .inr (.inr (.inr (.inr (.inr (.inr ⟨⟨_, _, _, rfl, by simp, by simp⟩, rfl⟩)))))
    | sec => exact .inr (.inr (.inr (.inr (.inr (.inr ⟨⟨_, _, _, rfl, by simp, by simp⟩, rfl⟩)))))

/-- A step is the next access, or, without one, a wait. -/
theorem step_nil {s : State} (h : s.pending = []) : step s = .next s := by
  simp only [step, State.takeAccess, h]

theorem step_cons {s : State} {x : HostAccess} {rest : List HostAccess} (h : s.pending = x :: rest) :
    step s = State.access x { s with pending := rest } := by
  simp only [step, State.takeAccess, h]

/-- The sectors of a layout are written over an empty table (R141, R210). -/
theorem startLayout_sec (s : State) : s.startLayout.sec = [] := rfl
theorem startImage_sec (s : State) : s.startImage.sec = [] := rfl

/-- The whole "start" block of `PARSE` and `DECODE` (R141, R228). -/
theorem startImage_eq (s : State) : s.startImage = { s with
    status := { s.status with imgValid := false, b0Valid := false, layValid := false, illcmd := false }
    err := .clear, imgLen := 0, b0 := .zero, geom := .none, secCount := 0, sec := [] } := rfl

/-- The whole "start" block of `RESOLVE` (R210). -/
theorem startLayout_eq (s : State) : s.startLayout = { s with
    status := { s.status with layValid := false, illcmd := false }
    err := .clear, geom := .none, secCount := 0, sec := [] } := rfl

/-- A leaf operation changes its results, their flag, `ST`, `ILLCMD` and the error record (R163, R174, R186). -/
theorem leafResult_eq (s : State) (r0 r1 r2 : Byte) : s.leafResult r0 r1 r2 = { s with
    status := { s.status with st := .done, resValid := true, illcmd := false }
    err := .clear, res := ⟨r0, r1, r2⟩ } := rfl

/-- A raise changes `ST` and the error record (R258). -/
theorem raise_eq (s : State) (e : FormatError) :
    s.raise e = { s with status := { s.status with st := .error }, err := s.err.record e } := rfl

/-- The text depends on the text memory, its length and the free content of unwritten cells only. -/
theorem text_congr {s t : State} (h1 : t.txt = s.txt) (h2 : t.txtLen = s.txtLen) (h3 : t.txtEpoch = s.txtEpoch) :
    t.text = s.text := by
  have : t.txtByte = s.txtByte := by funext a; simp only [State.txtByte, h1, h3]
  simp only [State.text, this, h2]

/-- The image depends on the image memory and its length only. -/
theorem image_congr {s t : State} (h1 : t.img = s.img) (h2 : t.imgLen = s.imgLen) : t.image = s.image := by
  have : t.imgByte = s.imgByte := by funext a; simp only [State.imgByte, h1]
  simp only [State.image, this, h2]

theorem text_length (s : State) : s.text.length = s.txtLen.toNat := by simp [State.text]
theorem image_length (s : State) : s.image.length = s.imgLen.toNat := by simp [State.image]

/-! The invariants of every step: one case per named state that a step can reach. -/

/-- What every step keeps: a property that each kind of access and each outcome of each command keeps. -/
theorem step_preserves {P : State → Prop} {s t : State} (hs : step s = .next t) (hP : P s)
    (pop : ∀ s rest, P s → P { s with pending := rest })
    (reset : ∀ s, P s → P s.hostReset)
    (read : ∀ s r, P s → P { s with readData := r })
    (poke : ∀ s a v, P s → P (s.writeTxt a v))
    (setlen : ∀ s v, P s → P (s.writeTxtLen v))
    (setarg : ∀ s arg, P s → P { s with arg := arg })
    (illegal : ∀ s, P s → P s.setIllcmd)
    (clear : ∀ s, P s → P s.clearAll)
    (leaf : ∀ s r0 r1 r2, P s → P (s.leafResult r0 r1 r2))
    (parse_ok : ∀ s I, P s → parse s.text = .ok I → P (s.startImage.storeImage I).markDone)
    (parse_error : ∀ s e, P s → parse s.text = .error e → P (s.startImage.raise e))
    (resolve_ok : ∀ s lay, P s → resolve s.image = .ok lay → P (s.startLayout.storeLayout lay).markDone)
    (resolve_error : ∀ s e, P s → resolve s.image = .error e → P (s.startLayout.raise e))
    (decode_ok : ∀ s I lay, P s → parse s.text = .ok I → resolve I = .ok lay →
      P (((s.startImage.storeImage I).storeBlock0 (block0Of I)).storeLayout lay).markDone)
    (decode_error : ∀ s I e, P s → parse s.text = .ok I → decodeImage I = .error e →
      P ((s.startImage.storeImage I).raise e)) : P t := by
  cases hp : s.pending with
  | nil => rw [step_nil hp] at hs; cases hs; exact hP
  | cons x rest =>
    rw [step_cons hp] at hs
    have hP' := pop s rest hP
    generalize { s with pending := rest } = s' at hs hP'
    rcases access_cases x s' with ⟨_, h⟩ | ⟨_, _, _, h⟩ | ⟨_, _, _, h⟩ | ⟨_, _, h⟩ | ⟨_, _, _, _, _, _, h⟩ | ⟨v, _, h⟩ | ⟨_, h⟩
    all_goals rw [h] at hs
    · cases hs; exact reset _ hP'
    · cases hs; exact read _ _ hP'
    · cases hs; exact poke _ _ _ hP'
    · cases hs; exact setlen _ _ hP'
    · cases hs; exact setarg _ _ hP'
    · rcases execCmd_cases (cmdWord v) s' with k | ⟨_, k⟩ | ⟨_, _, _, _, k⟩ | k | k | k
      all_goals rw [k] at hs
      · cases hs; exact illegal _ hP'
      · cases hs; exact clear _ hP'
      · cases hs; exact leaf _ _ _ _ hP'
      · rcases execParse_cases s' with ⟨_, h1, k⟩ | ⟨_, h1, k⟩ <;> rw [k] at hs <;> cases hs
        · exact parse_ok _ _ hP' h1
        · exact parse_error _ _ hP' h1
      · rcases execResolve_cases s' with ⟨_, h1, k⟩ | ⟨_, h1, k⟩ <;> rw [k] at hs <;> cases hs
        · exact resolve_ok _ _ hP' h1
        · exact resolve_error _ _ hP' h1
      · rcases execDecode_cases s' with ⟨_, _, h1, _, h2, k⟩ | ⟨_, _, h1, h2, k⟩ | ⟨_, h1, k⟩ <;> rw [k] at hs <;> cases hs
        · exact decode_ok _ _ _ hP' h1 h2
        · exact decode_error _ _ _ hP' h1 h2
        · exact parse_error _ _ hP' h1
    · cases hs; exact hP'

/-! The error record and the layout. -/

theorem FormatError.code_ne (e : FormatError) : e.code ≠ .noError := by cases e <;> simp [FormatError.code]

theorem ErrRegs.record_code (e : FormatError) (r : ErrRegs) : (r.record e).code = e.code := by cases e <;> rfl

/-- Only `InvalidHexToken` leaves anything in the three other registers of the record (R24). -/
theorem ErrRegs.record_clear (e : FormatError) (h : e.code ≠ .invalidHexToken) :
    ErrRegs.record e .clear = ⟨e.code, 0, 0, 0⟩ := by
  cases e <;> first | rfl | exact absurd rfl h

/-- A layout has the 16 or the 40 sectors of its geometry (R202). -/
theorem resolve_ok_cases {I : List Byte} {lay : CardLayout} (h : resolve I = .ok lay) :
    (I.length = 1024 ∧ lay.blocks = 64 ∧ lay.sectors.length = 16) ∨
    (I.length = 4096 ∧ lay.blocks = 256 ∧ lay.sectors.length = 40) := by
  rcases resolve_cases I with ⟨_, b⟩ | ⟨_, _, _, b⟩ | ⟨a, b⟩ <;> rw [b] at h <;> cases h
  rcases a with a | a <;> rw [a]
  · left; refine ⟨rfl, rfl, ?_⟩; simp; rfl
  · right; refine ⟨rfl, rfl, ?_⟩; simp; rfl

/-- Every entry of a layout writes 19 bytes, at its index below 40 (R43). -/
theorem resolve_ok_entries {I : List Byte} {lay : CardLayout} (h : resolve I = .ok lay) :
    ∀ x ∈ lay.sectors, x.sectorIndex < 40 ∧ x.bytes.length = 19 := by
  rcases resolve_cases I with ⟨_, b⟩ | ⟨_, _, _, b⟩ | ⟨a, b⟩ <;> rw [b] at h <;> cases h
  intro x hx
  simp only [List.mem_map] at hx
  obtain ⟨y, hy, rfl⟩ := hx
  refine ⟨?_, by simp [SectorTrailer.bytes, trailer, bytesAt]⟩
  show y.s < 40
  revert y
  rcases a with a | a <;> rw [a] <;> decide

/-- The sector table after its entries have been written: the entry that covers an address, if one does (R43, R210). -/
theorem read_writeEntries (L : List SectorTrailer) (m : Memory)
    (hs : L.Pairwise (fun x y => x.sectorIndex < y.sectorIndex)) (hb : ∀ x ∈ L, x.bytes.length = 19) (a : Nat) :
    Memory.read .sec (L.foldl writeEntry m) a =
      match L.find? (fun x => decide (32 * x.sectorIndex ≤ a ∧ a < 32 * x.sectorIndex + 19)) with
      | some x => x.bytes[a - 32 * x.sectorIndex]?
      | none => Memory.read .sec m a := by
  induction L generalizing m with
  | nil => rfl
  | cons x xs ih =>
    rw [List.pairwise_cons] at hs
    simp only [List.foldl_cons]
    rw [ih _ hs.2 (fun y hy => hb y (by simp [hy]))]
    have hx := hb x (by simp)
    by_cases hc : 32 * x.sectorIndex ≤ a ∧ a < 32 * x.sectorIndex + 19
    · have hn : xs.find? (fun x => decide (32 * x.sectorIndex ≤ a ∧ a < 32 * x.sectorIndex + 19)) = none := by
        rw [List.find?_eq_none]
        intro y hy
        have := hs.1 y hy
        simp; omega
      rw [hn]
      simp [hc, writeEntry, Memory.read_writeRange, hx]
    · simp only [List.find?_cons, hc, decide_false]
      cases xs.find? (fun x => decide (32 * x.sectorIndex ≤ a ∧ a < 32 * x.sectorIndex + 19)) with
      | some y => rfl
      | none => simp only [writeEntry, Memory.read_writeRange, hx, hc, if_false]

/-- Writing entries keeps the canonical form. -/
theorem wf_writeEntries (L : List SectorTrailer) {m : Memory} (h : Memory.wf .sec m) :
    Memory.wf .sec (L.foldl writeEntry m) := by
  induction L generalizing m with
  | nil => exact h
  | cons x xs ih => exact ih (Memory.wf_writeRange h _ _)

/-- `State.reset`'s three memories have the canonical form. -/
theorem reset_memories_wf : Memory.wf .txt State.reset.txt ∧ Memory.wf .img State.reset.img ∧
    Memory.wf .sec State.reset.sec := ⟨Memory.wf_nil _, Memory.wf_nil _, Memory.wf_nil _⟩

/-- Every write to the three memories of a state keeps their canonical form. -/
theorem wf_writeTxt {s : State} (h : Memory.wf .txt s.txt) (a : Nat) (v : Byte) : Memory.wf .txt (s.writeTxt a v).txt := by
  unfold State.writeTxt
  split
  · exact Memory.wf_write h a v
  · exact h

theorem wf_storeImage {s : State} (h : Memory.wf .img s.img) (I : List Byte) : Memory.wf .img (s.storeImage I).img :=
  Memory.wf_writeRange h 0 I

end Sys2Proof.Machine
end

