-- ==== Sys2Proof/Laws/HostView.lean ====
section
/-! SUPPORT. The data model that the host builds from the registers (R49) is what the operations computed: a layout that was
stored reads back whole, so does a decoded card, and a raised error reads back as itself. -/

namespace Sys2Proof.Machine

/-- A tier reads back from its code (R103). -/
@[simp] theorem tierOfCode?_code (t : Tier) : tierOfCode? t.code = some t := by cases t <;> rfl

@[simp] theorem collect_map_some (xs : List α) : collect (xs.map some) = some xs := by
  induction xs with
  | nil => rfl
  | cons x xs ih => simp [collect, ih]

/-- The name of the entry that a code selects is the name of the code (R34, R171). -/
theorem mfrEntryName_mfrId (code : Byte) : mfrEntryName (mfrId code) = mfrName code := rfl

theorem mfrIdFrom_le (code : Byte) (rows : List (Byte × String)) (i : Nat) (h : i + rows.length ≤ 36) :
    mfrIdFrom code i rows ≤ 36 := by
  induction rows generalizing i with
  | nil => exact le_refl _
  | cons row rows ih =>
    simp only [List.length_cons] at h
    unfold mfrIdFrom
    split
    · omega
    · exact ih _ (by omega)

/-- The document's Block0Info of an image: what the registers of its fields say (R49, R223 to R226). -/
theorem info_block0Of (I : List Byte) : (block0Of I).info =
    { uid := [byteAt I 0, byteAt I 1, byteAt I 2, byteAt I 3]
      checkByte := byteAt I 4
      manufacturerCode := byteAt I 5
      productionYear := productionYear (byteAt I 6)
      productionWeek := productionWeek (byteAt I 6)
      manufacturerName := mfrName (byteAt I 5)
      checksumValid := (validate (byteAt I 0) (byteAt I 1) (byteAt I 2) (byteAt I 3) (byteAt I 4)).1
      expectedCheckByte := if (validate (byteAt I 0) (byteAt I 1) (byteAt I 2) (byteAt I 3) (byteAt I 4)).1 then none
        else some (expectedBcc (byteAt I 0) (byteAt I 1) (byteAt I 2) (byteAt I 3)) } := by
  have h5 := mfrIdFrom_le (byteAt I 5) mfrTable 0 (by decide)
  have h6 := (byteAt I 6).isLt
  have hm : (BitVec.ofNat 6 (mfrId (byteAt I 5))).toNat = mfrId (byteAt I 5) := by
    rw [BitVec.toNat_ofNat]; exact Nat.mod_eq_of_lt (by unfold mfrId; omega)
  have hy : (BitVec.ofNat 16 (productionYear (byteAt I 6))).toNat = productionYear (byteAt I 6) := by
    rw [BitVec.toNat_ofNat]; exact Nat.mod_eq_of_lt (by unfold productionYear Config.yearBase; omega)
  have hw : (BitVec.ofNat 4 (productionWeek (byteAt I 6))).toNat = productionWeek (byteAt I 6) := by
    rw [BitVec.toNat_ofNat]; exact Nat.mod_eq_of_lt (by unfold productionWeek; omega)
  simp only [Block0Regs.info, block0Of, hm, hy, hw, mfrName]
  rfl

/-- Of entries with rising indices, the one that covers an address is the only one. -/
theorem find?_entry {L : List SectorTrailer} (hs : L.Pairwise (fun x y => x.sectorIndex < y.sectorIndex))
    {x : SectorTrailer} (hx : x ∈ L) {j : Nat} (hj : j < 19) :
    L.find? (fun y => decide (32 * y.sectorIndex ≤ 32 * x.sectorIndex + j ∧
      32 * x.sectorIndex + j < 32 * y.sectorIndex + 19)) = some x := by
  induction L with
  | nil => cases hx
  | cons y ys ih =>
    rw [List.pairwise_cons] at hs
    rcases List.mem_cons.1 hx with rfl | hx'
    · simp [hj]
    · have := hs.1 x hx'
      rw [List.find?_cons_of_neg (by simp; omega)]
      exact ih hs.2 hx'

/-- A stored entry reads back: offset `j` of the entry with the index of `x` is byte `j` of `x`. -/
theorem secField_writeEntries {s : State} {L : List SectorTrailer} (hsec : s.sec = L.foldl writeEntry [])
    (hs : L.Pairwise (fun x y => x.sectorIndex < y.sectorIndex)) (hb : ∀ x ∈ L, x.sectorIndex < 40 ∧ x.bytes.length = 19)
    {x : SectorTrailer} (hx : x ∈ L) {j : Nat} (hj : j < 19) : s.secField x.sectorIndex j = x.bytes.getD j 0 := by
  have h40 := (hb x hx).1
  unfold State.secField State.readSec secBytes
  rw [if_pos (by omega)]
  simp only [State.secByte, hsec, read_writeEntries L [] hs (fun y hy => (hb y hy).2), find?_entry hs hx hj]
  rw [show 32 * x.sectorIndex + j - 32 * x.sectorIndex = j by omega, List.getD_eq_getElem?_getD]

/-- The entries of a layout have rising indices, and the index is the position (R203, R43). -/
theorem resolve_ok_index {I : List Byte} {lay : CardLayout} (h : resolve I = .ok lay) :
    lay.sectors.map (·.sectorIndex) = List.range lay.sectors.length := by
  rcases resolve_cases I with ⟨_, b⟩ | ⟨_, _, _, b⟩ | ⟨a, b⟩ <;> rw [b] at h <;> cases h
  simp only [List.map_map, List.length_map]
  rw [show ((fun x : SectorTrailer => x.sectorIndex) ∘ fun x : SectorSpan => trailer I x.s x.tb) = (·.s) from rfl]
  rcases a with a | a <;> rw [a] <;> decide

/-- Every entry of a layout is the trailer of some block of the image (R203). -/
theorem resolve_ok_trailer {I : List Byte} {lay : CardLayout} (h : resolve I = .ok lay) :
    ∀ x ∈ lay.sectors, ∃ k tb, x = trailer I k tb := by
  rcases resolve_cases I with ⟨_, b⟩ | ⟨_, _, _, b⟩ | ⟨_, b⟩ <;> rw [b] at h <;> cases h
  intro x hx
  simp only [List.mem_map] at hx
  obtain ⟨y, _, rfl⟩ := hx
  exact ⟨_, _, rfl⟩

/-- A trailer is what its 19 bytes say. -/
theorem sectorTrailer_of_bytes {s : State} {I : List Byte} {k tb : Nat}
    (h : ∀ j < 19, s.secField k j = (trailer I k tb).bytes.getD j 0) : s.sectorTrailer k = some (trailer I k tb) := by
  have hc : s.accessConditions k = some (trailer I k tb).conditions := by
    simp only [State.accessConditions, h 16 (by omega), h 17 (by omega), h 18 (by omega)]
    simp [SectorTrailer.bytes, trailer, bytesAt, List.range_succ]
  simp only [State.sectorTrailer, hc, Option.map_some, Option.some.injEq]
  simp only [List.range_succ, List.range_zero, List.map_append, List.map_cons, List.map_nil, List.nil_append]
  simp only [h 0 (by omega), h 1 (by omega), h 2 (by omega), h 3 (by omega), h 4 (by omega), h 5 (by omega),
    h 6 (by omega), h 7 (by omega), h 8 (by omega), h 9 (by omega), h (10 + 0) (by omega), h (10 + 1) (by omega),
    h (10 + 2) (by omega), h (10 + 3) (by omega), h (10 + 4) (by omega), h (10 + 5) (by omega)]
  simp [SectorTrailer.bytes, trailer, bytesAt, List.range_succ]

/-- A layout that was stored reads back whole from `SEC`, `SEC_COUNT` and `GEOM` (R43, R49, R210). -/
theorem cardLayout_of_resolve {s : State} {I : List Byte} {lay : CardLayout} (hr : resolve I = .ok lay)
    (hv : s.status.layValid = true) (hsec : s.sec = lay.sectors.foldl writeEntry [])
    (hn : s.secCount = .ofNat 6 lay.sectors.length) (hg : s.geom = if lay.blocks = 64 then .k1 else .k4) :
    s.cardLayout = some lay := by
  have hidx := resolve_ok_index hr
  have hs : lay.sectors.Pairwise (fun x y => x.sectorIndex < y.sectorIndex) := by
    rw [← List.pairwise_map (f := fun x : SectorTrailer => x.sectorIndex) (R := (· < ·)), hidx]
    exact List.pairwise_lt_range
  have hcount : s.secCount.toNat = lay.sectors.length := by
    rw [hn]; rcases resolve_ok_cases hr with ⟨_, _, h⟩ | ⟨_, _, h⟩ <;> rw [h] <;> rfl
  have hblocks : s.geom.blocks = lay.blocks := by
    rw [hg]; rcases resolve_ok_cases hr with ⟨_, h, _⟩ | ⟨_, h, _⟩ <;> rw [h] <;> rfl
  have hmap : (List.range s.secCount.toNat).map s.sectorTrailer = lay.sectors.map some := by
    rw [hcount, ← hidx, List.map_map]
    refine List.map_congr_left fun x hx => ?_
    obtain ⟨k, tb, rfl⟩ := resolve_ok_trailer hr x hx
    exact sectorTrailer_of_bytes fun j hj => secField_writeEntries hsec hs (resolve_ok_entries hr) hx hj
  simp only [State.cardLayout, hv, if_true, hmap, collect_map_some, Option.map_some, hblocks]

/-- After a successful `RESOLVE` the host reads the layout of the image (R49, R210). -/
theorem cardLayout_resolve {s : State} {lay : CardLayout} (hr : resolve s.image = .ok lay) :
    ((s.startLayout.storeLayout lay).markDone).cardLayout = some lay :=
  cardLayout_of_resolve hr rfl rfl rfl rfl

/-- After a successful `DECODE` the host reads the decoded card of the image (R49, R226, R228). -/
theorem decodedCard_decode {s : State} {I : List Byte} {lay : CardLayout} (hr : resolve I = .ok lay) :
    ((((s.startImage.storeImage I).storeBlock0 (block0Of I)).storeLayout lay).markDone).decodedCard =
      some ⟨block0Of I, lay⟩ := by
  have h := cardLayout_of_resolve (s := (((s.startImage.storeImage I).storeBlock0 (block0Of I)).storeLayout lay).markDone)
    hr rfl rfl rfl rfl
  have hv : ((((s.startImage.storeImage I).storeBlock0 (block0Of I)).storeLayout lay).markDone).status.b0Valid = true := rfl
  rw [State.decodedCard, hv, h]; rfl

/-- A raised error reads back as itself, its numbers below `2^32` as R24 has them (R49, R258). -/
theorem formatError_raise (s : State) (e : FormatError)
    (h : ∀ line off len, e = .invalidHexToken line off len → line < 2 ^ 32 ∧ off < 2 ^ 32 ∧ len < 2 ^ 32) :
    (s.raise e).formatError = some e := by
  rw [State.formatError, if_pos (show (s.raise e).status.st = .error from rfl)]
  cases e with
  | invalidHexToken line off len =>
    obtain ⟨h1, h2, h3⟩ := h line off len rfl
    simp only [raise_eq, ErrRegs.record, ErrRegs.formatError, BitVec.toNat_ofNat, Nat.mod_eq_of_lt h1,
      Nat.mod_eq_of_lt h2, Nat.mod_eq_of_lt h3]
  | _ => rfl

/-- Without an error there is nothing to report (R49). -/
theorem formatError_of_not_error {s : State} (h : s.status.st ≠ .error) : s.formatError = none := if_neg h

end Sys2Proof.Machine
end

