-- ==== Sys2Proof/Laws/Parse.lean ====
section
/-! SUPPORT. What the parser's pieces give: digits are below 16, a cut keeps every byte, a line that gives bytes is at
least five bytes longer than twice their number, and an error record lies inside the text. -/

namespace Sys2Proof.Machine

theorem digit?_lt {x : Byte} {n : Nat} (h : digit? x = some n) : n < 16 := by
  unfold digit? at h
  split at h
  · simp only [Option.some.injEq] at h; omega
  · split at h
    · simp only [Option.some.injEq] at h; omega
    · split at h
      · simp only [Option.some.injEq] at h; omega
      · simp at h

theorem splitOn_ne_nil (sep : Byte) (T : List Byte) : splitOn sep T ≠ [] := by
  cases T with
  | nil => simp [splitOn]
  | cons x xs =>
    simp only [splitOn]
    split
    · simp
    · split <;> simp

/-- A cut at a separator starts an empty piece; any other byte goes to the first piece. -/
theorem splitOn_cons (sep x : Byte) (xs : List Byte) :
    ∃ piece more, splitOn sep xs = piece :: more ∧
      splitOn sep (x :: xs) = if x = sep then [] :: piece :: more else (x :: piece) :: more := by
  obtain ⟨piece, more, h⟩ := List.exists_cons_of_ne_nil (splitOn_ne_nil sep xs)
  exact ⟨piece, more, h, by simp [splitOn, h]⟩

/-- `k` separators give `k + 1` pieces (R91). -/
theorem splitOn_count (sep : Byte) (T : List Byte) : (splitOn sep T).length = T.count sep + 1 := by
  induction T with
  | nil => simp [splitOn]
  | cons x xs ih =>
    obtain ⟨piece, more, h, h'⟩ := splitOn_cons sep x xs
    rw [h] at ih
    rw [h']
    by_cases hx : x = sep <;> simp_all

/-- The pieces and the separators are the whole text. -/
theorem splitOn_length (sep : Byte) (T : List Byte) :
    ((splitOn sep T).map List.length).sum + (splitOn sep T).length = T.length + 1 := by
  induction T with
  | nil => simp [splitOn]
  | cons x xs ih =>
    obtain ⟨piece, more, h, h'⟩ := splitOn_cons sep x xs
    rw [h] at ih
    rw [h']
    simp only [List.map_cons, List.sum_cons, List.length_cons] at ih ⊢
    split <;> simp only [List.map_cons, List.sum_cons, List.length_cons, List.length_nil] <;> omega

theorem trimRight_length (bytes : List Byte) : (trimRight bytes).length ≤ bytes.length := by
  unfold trimRight
  simpa using (List.dropWhile_sublist isWs (l := bytes.reverse)).length_le

theorem tokenValue?_length {tok : List Byte} {v : Byte} (h : tokenValue? tok = some v) :
    1 ≤ tok.length ∧ tok.length ≤ 2 := by
  match tok, h with
  | [_], _ => simp
  | [_, _], _ => simp
  | [], h => simp [tokenValue?] at h
  | _ :: _ :: _ :: _, h => simp [tokenValue?] at h

/-- A line's payload gives one byte per token (R138). -/
theorem scanTokens_ok {line t : Nat} {toks : List (List Byte)} {vs : List Byte}
    (h : scanTokens line t toks = .ok vs) :
    vs.length = toks.length ∧ 2 * vs.length ≤ (toks.map List.length).sum + toks.length := by
  induction toks generalizing t vs with
  | nil => simp only [scanTokens, Except.ok.injEq] at h; subst h; simp
  | cons tok more ih =>
    simp only [scanTokens] at h
    split at h
    · cases h
    · rename_i v hv
      split at h
      · cases h
      · rename_i ws hws
        obtain ⟨h1, h2⟩ := ih hws
        have := tokenValue?_length hv
        cases h
        simp only [List.map_cons, List.sum_cons, List.length_cons]
        omega

/-- An invalid token is reported with the line it stands on, inside the payload (R137). -/
theorem scanTokens_error {line t : Nat} {toks : List (List Byte)} {e : FormatError}
    (h : scanTokens line t toks = .error e) :
    ∃ off len, e = .invalidHexToken line off len ∧
      off + len + 1 ≤ t + (toks.map List.length).sum + toks.length := by
  induction toks generalizing t with
  | nil => cases h
  | cons tok more ih =>
    simp only [scanTokens] at h
    split at h
    · cases h
      refine ⟨_, _, rfl, ?_⟩
      simp only [List.map_cons, List.sum_cons, List.length_cons]; omega
    · split at h
      · rename_i e' he
        cases h
        obtain ⟨off, len, rfl, h2⟩ := ih he
        refine ⟨_, _, rfl, ?_⟩
        simp only [List.map_cons, List.sum_cons, List.length_cons]; omega
      · cases h

theorem isBlockLine_length {bytes : List Byte} (h : isBlockLine bytes = true) : 5 ≤ bytes.length := by
  have h1 : (bytes.take 5).length = 5 := by
    rw [show bytes.take 5 = blockWord by simpa [isBlockLine] using h]; rfl
  simp only [List.length_take] at h1; omega

/-- The first colon of a Block line stands after the word "Block". -/
theorem findColon_le {bytes : List Byte} {c : Nat} (h : isBlockLine bytes = true)
    (hc : bytes.findIdx? (· == chColon) = some c) : 5 ≤ c ∧ c < bytes.length := by
  rw [List.findIdx?_eq_some_iff_getElem] at hc
  obtain ⟨hlt, hcol, -⟩ := hc
  refine ⟨?_, hlt⟩
  by_contra hlt5
  have hb : bytes.take 5 = blockWord := by simpa [isBlockLine] using h
  have hk : (bytes.take 5)[c]? = some chColon := by
    rw [List.getElem?_take_of_lt (by omega), List.getElem?_eq_getElem hlt]
    simpa using hcol
  rw [hb] at hk
  have : c = 0 ∨ c = 1 ∨ c = 2 ∨ c = 3 ∨ c = 4 := by omega
  rcases this with rfl | rfl | rfl | rfl | rfl <;> revert hk <;> decide

/-- A line that is not a Block line gives nothing (R92). -/
theorem scanLine_other {line p : Nat} {bytes : List Byte} (h : isBlockLine bytes = false) :
    scanLine line p bytes = .ok [] := by simp [scanLine, h]

/-- A Block line that parses gives at least one byte, and is at least five bytes longer than twice their number (R81). -/
theorem scanLine_ok {line p : Nat} {bytes vs : List Byte} (hb : isBlockLine bytes = true)
    (h : scanLine line p bytes = .ok vs) : 1 ≤ vs.length ∧ 2 * vs.length + 5 ≤ bytes.length := by
  simp only [scanLine, hb, if_true] at h
  split at h
  · cases h
  · rename_i c hc
    have hcol := findColon_le hb hc
    obtain ⟨h1, h2⟩ := scanTokens_ok h
    have hs := splitOn_length chSpace (trimRight ((bytes.drop (c + 1)).dropWhile isWs))
    have hn := splitOn_count chSpace (trimRight ((bytes.drop (c + 1)).dropWhile isWs))
    have ht := trimRight_length ((bytes.drop (c + 1)).dropWhile isWs)
    have hd := (List.dropWhile_sublist isWs (l := bytes.drop (c + 1))).length_le
    simp only [List.length_drop] at hd
    omega

/-- A Block line that does not parse is reported by its number, inside the line (R134, R137). -/
theorem scanLine_error {line p : Nat} {bytes : List Byte} {e : FormatError} (h : scanLine line p bytes = .error e) :
    isBlockLine bytes = true ∧ ∃ off len, e = .invalidHexToken line off len ∧ off + len ≤ p + bytes.length := by
  by_cases hb : isBlockLine bytes = true
  · refine ⟨hb, ?_⟩
    simp only [scanLine, hb, if_true] at h
    split at h
    · cases h
      exact ⟨_, _, rfl, le_refl _⟩
    · rename_i c hc
      have hcol := findColon_le hb hc
      obtain ⟨off, len, rfl, h2⟩ := scanTokens_error h
      refine ⟨_, _, rfl, ?_⟩
      have hs := splitOn_length chSpace (trimRight ((bytes.drop (c + 1)).dropWhile isWs))
      have ht := trimRight_length ((bytes.drop (c + 1)).dropWhile isWs)
      have hd : ((bytes.drop (c + 1)).takeWhile isWs).length + ((bytes.drop (c + 1)).dropWhile isWs).length
          = bytes.length - (c + 1) := by
        rw [← List.length_append, List.takeWhile_append_dropWhile, List.length_drop]
      omega
  · simp [scanLine, hb] at h

/-- All lines together: no bytes, or at least five bytes of text more than twice their number (R81). -/
theorem scanLines_ok {line p : Nat} {lines : List (List Byte)} {ws : List Byte} (h : scanLines line p lines = .ok ws) :
    ws = [] ∨ 2 * ws.length + 5 ≤ (lines.map List.length).sum := by
  induction lines generalizing line p ws with
  | nil => simp only [scanLines, Except.ok.injEq] at h; exact .inl h.symm
  | cons bytes more ih =>
    simp only [scanLines] at h
    split at h
    · cases h
    · rename_i vs hvs
      split at h
      · cases h
      · rename_i us hus
        cases h
        simp only [List.map_cons, List.sum_cons, List.length_append]
        by_cases hb : isBlockLine bytes = true
        · have := scanLine_ok hb hvs
          rcases ih hus with rfl | h2
          · simp; omega
          · omega
        · rw [scanLine_other (by simpa using hb)] at hvs
          cases hvs
          rcases ih hus with rfl | h2
          · simp
          · simp; omega

/-- The lines give no bytes exactly when none of them is a Block line (R139). -/
theorem scanLines_empty {line p : Nat} {lines : List (List Byte)} :
    scanLines line p lines = .ok [] ↔ ∀ L ∈ lines, isBlockLine L = false := by
  induction lines generalizing line p with
  | nil => simp [scanLines]
  | cons bytes more ih =>
    simp only [scanLines, List.mem_cons, forall_eq_or_imp]
    by_cases hb : isBlockLine bytes = true
    · simp only [hb, Bool.true_eq_false, false_and, iff_false]
      split
      · simp
      · rename_i vs hvs
        have := (scanLine_ok hb hvs).1
        split
        · simp
        · simp only [Except.ok.injEq, List.append_eq_nil_iff, not_and]
          rintro rfl; simp at this
    · rw [scanLine_other (by simpa using hb)]
      simp only [Bool.not_eq_true] at hb
      simp only [hb, List.nil_append, true_and]
      rw [← ih (line := line + 1) (p := p + bytes.length + 1)]
      split <;> simp_all

/-- A line that does not parse is reported by its number and by offsets inside the text. -/
theorem scanLines_error {line p : Nat} {lines : List (List Byte)} {e : FormatError}
    (h : scanLines line p lines = .error e) :
    ∃ n off len, e = .invalidHexToken n off len ∧ line ≤ n ∧ n + 6 ≤ line + (lines.map List.length).sum + lines.length ∧
      n < line + lines.length ∧ off + len + 1 ≤ p + (lines.map List.length).sum + lines.length := by
  induction lines generalizing line p with
  | nil => cases h
  | cons bytes more ih =>
    simp only [scanLines] at h
    simp only [List.map_cons, List.sum_cons, List.length_cons]
    split at h
    · rename_i e' he
      cases h
      obtain ⟨hb, off, len, rfl, h2⟩ := scanLine_error he
      have := isBlockLine_length hb
      exact ⟨_, _, _, rfl, le_refl _, by omega, by omega, by omega⟩
    · split at h
      · rename_i e' he
        cases h
        obtain ⟨n, off, len, rfl, h1, h2, h3, h4⟩ := ih he
        exact ⟨_, _, _, rfl, by omega, by omega, by omega, by omega⟩
      · cases h

/-- `Parse` answers with the bytes of the lines, of which there is at least one, or with the first error. -/
theorem parse_cases (T : List Byte) :
    (∃ I, parse T = .ok I ∧ scanLines 1 0 (splitOn chLf T) = .ok I ∧ I ≠ []) ∨
    (parse T = .error .noBlockData ∧ scanLines 1 0 (splitOn chLf T) = .ok []) ∨
    (∃ e, parse T = .error e ∧ scanLines 1 0 (splitOn chLf T) = .error e) := by
  unfold parse
  split
  · exact .inr (.inr ⟨_, rfl, by assumption⟩)
  · exact .inr (.inl ⟨rfl, by assumption⟩)
  · exact .inl ⟨_, rfl, by assumption, by simp⟩

end Sys2Proof.Machine
end

