-- ==== Sys2Proof/Laws/PerInstr.lean ====
section
/-! SUPPORT. The family `RowMatch`: the word of a well-formed instruction is one of its row's words in the opcode table, at
the place the row's format names. The masks and matches below are the table's columns, written out again. -/

namespace Sys2Proof.Laws.RowMatch

/-- The formats of the opcode table. -/
inductive Format where
  | cmdw
  | accfield
  | mfrcode
  | errcode
deriving DecidableEq, Repr

/-- The format whose words stand at a place. -/
def formatOf : Place → Format
  | .cmd => .cmdw
  | .accField _ => .accfield
  | .mfrCode => .mfrcode
  | .errRecord _ _ _ => .errcode

/-- Format, mask and match of a row; the mask 0 stands for the one row without a pattern, MFR.DEFAULT. -/
def rowOf : Instr → Format × Byte × Byte
  | .clear => (.cmdw, 0xFF, 0x00)
  | .parse => (.cmdw, 0xFF, 0x01)
  | .validate => (.cmdw, 0xFF, 0x02)
  | .lookup => (.cmdw, 0xFF, 0x03)
  | .accdec => (.cmdw, 0xFF, 0x04)
  | .resolve => (.cmdw, 0xFF, 0x05)
  | .decode => (.cmdw, 0xFF, 0x06)
  | .illegalOpc7 => (.cmdw, 0xFF, 0x07)
  | .illegalBit3 _ => (.cmdw, 0x08, 0x08)
  | .illegalBit4 _ => (.cmdw, 0x10, 0x10)
  | .illegalBit5 _ => (.cmdw, 0x20, 0x20)
  | .illegalBit6 _ => (.cmdw, 0x40, 0x40)
  | .illegalBit7 _ => (.cmdw, 0x80, 0x80)
  | .tierNoAccess000 _ => (.accfield, 0x07, 0x00)
  | .tierAlways001 _ => (.accfield, 0x07, 0x01)
  | .tierKeya010 _ => (.accfield, 0x07, 0x02)
  | .tierKeyb011 _ => (.accfield, 0x07, 0x03)
  | .tierNoauth100 _ => (.accfield, 0x07, 0x04)
  | .tierEither101 _ => (.accfield, 0x07, 0x05)
  | .tierInvalid110 _ => (.accfield, 0x07, 0x06)
  | .tierInvalid111 _ => (.accfield, 0x07, 0x07)
  | .mfr00 => (.mfrcode, 0xFF, 0x00)
  | .mfr04 => (.mfrcode, 0xFF, 0x04)
  | .mfr05 => (.mfrcode, 0xFF, 0x05)
  | .mfr07 => (.mfrcode, 0xFF, 0x07)
  | .mfr0A => (.mfrcode, 0xFF, 0x0A)
  | .mfr0B => (.mfrcode, 0xFF, 0x0B)
  | .mfr0C => (.mfrcode, 0xFF, 0x0C)
  | .mfr0F => (.mfrcode, 0xFF, 0x0F)
  | .mfr11 => (.mfrcode, 0xFF, 0x11)
  | .mfr13 => (.mfrcode, 0xFF, 0x13)
  | .mfr1F => (.mfrcode, 0xFF, 0x1F)
  | .mfr2B => (.mfrcode, 0xFF, 0x2B)
  | .mfr2E => (.mfrcode, 0xFF, 0x2E)
  | .mfr39 => (.mfrcode, 0xFF, 0x39)
  | .mfr3F => (.mfrcode, 0xFF, 0x3F)
  | .mfr41 => (.mfrcode, 0xFF, 0x41)
  | .mfr43 => (.mfrcode, 0xFF, 0x43)
  | .mfr4A => (.mfrcode, 0xFF, 0x4A)
  | .mfr4D => (.mfrcode, 0xFF, 0x4D)
  | .mfr55 => (.mfrcode, 0xFF, 0x55)
  | .mfr6A => (.mfrcode, 0xFF, 0x6A)
  | .mfr7C => (.mfrcode, 0xFF, 0x7C)
  | .mfr88 => (.mfrcode, 0xFF, 0x88)
  | .mfr8A => (.mfrcode, 0xFF, 0x8A)
  | .mfrA0 => (.mfrcode, 0xFF, 0xA0)
  | .mfrA1 => (.mfrcode, 0xFF, 0xA1)
  | .mfrB0 => (.mfrcode, 0xFF, 0xB0)
  | .mfrB3 => (.mfrcode, 0xFF, 0xB3)
  | .mfrC0 => (.mfrcode, 0xFF, 0xC0)
  | .mfrC1 => (.mfrcode, 0xFF, 0xC1)
  | .mfrC2 => (.mfrcode, 0xFF, 0xC2)
  | .mfrD2 => (.mfrcode, 0xFF, 0xD2)
  | .mfrE0 => (.mfrcode, 0xFF, 0xE0)
  | .mfrE1 => (.mfrcode, 0xFF, 0xE1)
  | .mfrF0 => (.mfrcode, 0xFF, 0xF0)
  | .mfrFF => (.mfrcode, 0xFF, 0xFF)
  | .mfrDefault _ => (.mfrcode, 0x00, 0x00)
  | .errNoBlockData => (.errcode, 0x07, 0x01)
  | .errInvalidHexToken _ _ _ => (.errcode, 0x07, 0x02)
  | .errTooShortForBlock0 => (.errcode, 0x07, 0x03)
  | .errMisalignedImage => (.errcode, 0x07, 0x04)
  | .errUnsupportedCardSize => (.errcode, 0x07, 0x05)

/-- The word of the instruction matches its row, and stands where the row's format says. -/
def Statement (i : Instr) : Prop :=
  i.wellFormed = true → formatOf i.place = (rowOf i).1 ∧ encode i &&& (rowOf i).2.1 = (rowOf i).2.2

theorem clear : Statement .clear := fun _ => ⟨rfl, rfl⟩
theorem parse : Statement .parse := fun _ => ⟨rfl, rfl⟩
theorem validate : Statement .validate := fun _ => ⟨rfl, rfl⟩
theorem lookup : Statement .lookup := fun _ => ⟨rfl, rfl⟩
theorem accdec : Statement .accdec := fun _ => ⟨rfl, rfl⟩
theorem resolve : Statement .resolve := fun _ => ⟨rfl, rfl⟩
theorem decode : Statement .decode := fun _ => ⟨rfl, rfl⟩
theorem illegalOpc7 : Statement .illegalOpc7 := fun _ => ⟨rfl, rfl⟩
theorem illegalBit3 (w : Byte) : Statement (.illegalBit3 w) := by
  intro h; refine ⟨rfl, ?_⟩; revert h; revert w; decide
theorem illegalBit4 (w : Byte) : Statement (.illegalBit4 w) := by
  intro h; refine ⟨rfl, ?_⟩; revert h; revert w; decide
theorem illegalBit5 (w : Byte) : Statement (.illegalBit5 w) := by
  intro h; refine ⟨rfl, ?_⟩; revert h; revert w; decide
theorem illegalBit6 (w : Byte) : Statement (.illegalBit6 w) := by
  intro h; refine ⟨rfl, ?_⟩; revert h; revert w; decide
theorem illegalBit7 (w : Byte) : Statement (.illegalBit7 w) := by
  intro h; refine ⟨rfl, ?_⟩; revert h; revert w; decide
theorem tierNoAccess000 (f : AccField) : Statement (.tierNoAccess000 f) := fun _ => ⟨rfl, show (0 : Byte) &&& 7 = 0 by decide⟩
theorem tierAlways001 (f : AccField) : Statement (.tierAlways001 f) := fun _ => ⟨rfl, show (1 : Byte) &&& 7 = 1 by decide⟩
theorem tierKeya010 (f : AccField) : Statement (.tierKeya010 f) := fun _ => ⟨rfl, show (2 : Byte) &&& 7 = 2 by decide⟩
theorem tierKeyb011 (f : AccField) : Statement (.tierKeyb011 f) := fun _ => ⟨rfl, show (3 : Byte) &&& 7 = 3 by decide⟩
theorem tierNoauth100 (f : AccField) : Statement (.tierNoauth100 f) := fun _ => ⟨rfl, show (4 : Byte) &&& 7 = 4 by decide⟩
theorem tierEither101 (f : AccField) : Statement (.tierEither101 f) := fun _ => ⟨rfl, show (5 : Byte) &&& 7 = 5 by decide⟩
theorem tierInvalid110 (f : AccField) : Statement (.tierInvalid110 f) := fun _ => ⟨rfl, show (6 : Byte) &&& 7 = 6 by decide⟩
theorem tierInvalid111 (f : AccField) : Statement (.tierInvalid111 f) := fun _ => ⟨rfl, show (7 : Byte) &&& 7 = 7 by decide⟩
theorem mfr00 : Statement .mfr00 := fun _ => ⟨rfl, rfl⟩
theorem mfr04 : Statement .mfr04 := fun _ => ⟨rfl, rfl⟩
theorem mfr05 : Statement .mfr05 := fun _ => ⟨rfl, rfl⟩
theorem mfr07 : Statement .mfr07 := fun _ => ⟨rfl, rfl⟩
theorem mfr0A : Statement .mfr0A := fun _ => ⟨rfl, rfl⟩
theorem mfr0B : Statement .mfr0B := fun _ => ⟨rfl, rfl⟩
theorem mfr0C : Statement .mfr0C := fun _ => ⟨rfl, rfl⟩
theorem mfr0F : Statement .mfr0F := fun _ => ⟨rfl, rfl⟩
theorem mfr11 : Statement .mfr11 := fun _ => ⟨rfl, rfl⟩
theorem mfr13 : Statement .mfr13 := fun _ => ⟨rfl, rfl⟩
theorem mfr1F : Statement .mfr1F := fun _ => ⟨rfl, rfl⟩
theorem mfr2B : Statement .mfr2B := fun _ => ⟨rfl, rfl⟩
theorem mfr2E : Statement .mfr2E := fun _ => ⟨rfl, rfl⟩
theorem mfr39 : Statement .mfr39 := fun _ => ⟨rfl, rfl⟩
theorem mfr3F : Statement .mfr3F := fun _ => ⟨rfl, rfl⟩
theorem mfr41 : Statement .mfr41 := fun _ => ⟨rfl, rfl⟩
theorem mfr43 : Statement .mfr43 := fun _ => ⟨rfl, rfl⟩
theorem mfr4A : Statement .mfr4A := fun _ => ⟨rfl, rfl⟩
theorem mfr4D : Statement .mfr4D := fun _ => ⟨rfl, rfl⟩
theorem mfr55 : Statement .mfr55 := fun _ => ⟨rfl, rfl⟩
theorem mfr6A : Statement .mfr6A := fun _ => ⟨rfl, rfl⟩
theorem mfr7C : Statement .mfr7C := fun _ => ⟨rfl, rfl⟩
theorem mfr88 : Statement .mfr88 := fun _ => ⟨rfl, rfl⟩
theorem mfr8A : Statement .mfr8A := fun _ => ⟨rfl, rfl⟩
theorem mfrA0 : Statement .mfrA0 := fun _ => ⟨rfl, rfl⟩
theorem mfrA1 : Statement .mfrA1 := fun _ => ⟨rfl, rfl⟩
theorem mfrB0 : Statement .mfrB0 := fun _ => ⟨rfl, rfl⟩
theorem mfrB3 : Statement .mfrB3 := fun _ => ⟨rfl, rfl⟩
theorem mfrC0 : Statement .mfrC0 := fun _ => ⟨rfl, rfl⟩
theorem mfrC1 : Statement .mfrC1 := fun _ => ⟨rfl, rfl⟩
theorem mfrC2 : Statement .mfrC2 := fun _ => ⟨rfl, rfl⟩
theorem mfrD2 : Statement .mfrD2 := fun _ => ⟨rfl, rfl⟩
theorem mfrE0 : Statement .mfrE0 := fun _ => ⟨rfl, rfl⟩
theorem mfrE1 : Statement .mfrE1 := fun _ => ⟨rfl, rfl⟩
theorem mfrF0 : Statement .mfrF0 := fun _ => ⟨rfl, rfl⟩
theorem mfrFF : Statement .mfrFF := fun _ => ⟨rfl, rfl⟩
theorem mfrDefault (c : Byte) : Statement (.mfrDefault c) := fun _ => ⟨rfl, BitVec.and_zero⟩
theorem errNoBlockData : Statement .errNoBlockData := fun _ => ⟨rfl, rfl⟩
theorem errInvalidHexToken (line off len : Word) : Statement (.errInvalidHexToken line off len) := fun _ => ⟨rfl, show (2 : Byte) &&& 7 = 2 by decide⟩
theorem errTooShortForBlock0 : Statement .errTooShortForBlock0 := fun _ => ⟨rfl, rfl⟩
theorem errMisalignedImage : Statement .errMisalignedImage := fun _ => ⟨rfl, rfl⟩
theorem errUnsupportedCardSize : Statement .errUnsupportedCardSize := fun _ => ⟨rfl, rfl⟩

end Sys2Proof.Laws.RowMatch
end

