-- ==== Sys2Proof/Tests/Slice0.lean ====
section
/-! SUPPORT. The model's own tests: ill-formed terms refused, words written out from the encodings, one step on the spec's
vectors (95_test_vectors.md), and for every statement with hypotheses a state that meets them. -/

namespace Sys2Proof.Tests

open Sys2Proof Sys2Proof.Machine

/-! Helpers. -/

/-- The cells that hold a text from an address on. -/
def cellsFrom : Nat → List Byte → Memory
  | _, [] => []
  | a, v :: vs => (a, v) :: cellsFrom (a + 1) vs

/-- The reset state with a text loaded. -/
def withText (T : List Byte) : State := { State.reset with txt := cellsFrom 0 T, txtLen := .ofNat 32 T.length }

/-- The reset state with the operands `ARG[0..4]`. -/
def withArg (a b c d e : Byte) : State := { State.reset with arg := ⟨a, b, c, d, e⟩ }

/-- The reset state with an image of `n` zero bytes. -/
def withImage (n : Nat) : State :=
  { State.reset with imgLen := .ofNat 32 n, status := { State.reset.status with imgValid := true } }

/-- The reset state with one access pending. -/
def withAccess (x : HostAccess) : State := { State.reset with pending := [x] }

/-- Something of the next state, none when there is none. -/
def look (f : State → α) : Host.Outcome State Fault Refusal → Option α
  | .next s => some (f s)
  | _ => none

/-- `ST`, `ERR` and the record, `IMG_LEN`. -/
def parseView (s : State) : St × ErrRegs × Word := (s.status.st, s.err, s.imgLen)

/-- `RES[0..2]` and `RES_VALID`. -/
def resView (s : State) : List Byte × Bool := ([s.res.r0, s.res.r1, s.res.r2], s.status.resValid)

/-! WellFormed: one ill-formed term for each check. -/

theorem test_illformed_bit3_clear : (Instr.illegalBit3 0x10).wellFormed = false := by decide
theorem test_illformed_bit4_clear : (Instr.illegalBit4 0x80).wellFormed = false := by decide
theorem test_illformed_bit4_lower_set : (Instr.illegalBit4 0x18).wellFormed = false := by decide
theorem test_illformed_bit5_lower_set : (Instr.illegalBit5 0x30).wellFormed = false ∧ (Instr.illegalBit5 0x28).wellFormed = false := by decide
theorem test_illformed_bit6_lower_set : (Instr.illegalBit6 0x60).wellFormed = false ∧ (Instr.illegalBit6 0x3F).wellFormed = false := by decide
theorem test_illformed_bit7_lower_set : (Instr.illegalBit7 0xC0).wellFormed = false ∧ (Instr.illegalBit7 0x07).wellFormed = false := by decide
theorem test_illformed_default_of_listed_code : (Instr.mfrDefault 0x04).wellFormed = false := by decide
theorem test_illformed_line_zero : (Instr.errInvalidHexToken 0 5 1).wellFormed = false := by decide

/-! Decode: the word of every row, bit by bit from the table's encoding column. -/

theorem test_decode_command_words :
    decodeCmd 0b00000000 = .clear ∧
    decodeCmd 0b00000001 = .parse ∧
    decodeCmd 0b00000010 = .validate ∧
    decodeCmd 0b00000011 = .lookup ∧
    decodeCmd 0b00000100 = .accdec ∧
    decodeCmd 0b00000101 = .resolve ∧
    decodeCmd 0b00000110 = .decode ∧
    decodeCmd 0b00000111 = .illegalOpc7 := by decide

theorem test_decode_illegal_words :
    decodeCmd 0b00001000 = .illegalBit3 0b00001000 ∧
    decodeCmd 0b11111111 = .illegalBit3 0b11111111 ∧
    decodeCmd 0b00010000 = .illegalBit4 0b00010000 ∧
    decodeCmd 0b11110110 = .illegalBit4 0b11110110 ∧
    decodeCmd 0b00100001 = .illegalBit5 0b00100001 ∧
    decodeCmd 0b11100000 = .illegalBit5 0b11100000 ∧
    decodeCmd 0b01000010 = .illegalBit6 0b01000010 ∧
    decodeCmd 0b11000111 = .illegalBit6 0b11000111 ∧
    decodeCmd 0b10000110 = .illegalBit7 0b10000110 := by decide

theorem test_decode_access_patterns (f : AccField) :
    decodeAt (.accField f) 0b00000000 = .ok (.tierNoAccess000 f) ∧
    decodeAt (.accField f) 0b00000001 = .ok (.tierAlways001 f) ∧
    decodeAt (.accField f) 0b00000010 = .ok (.tierKeya010 f) ∧
    decodeAt (.accField f) 0b00000011 = .ok (.tierKeyb011 f) ∧
    decodeAt (.accField f) 0b00000100 = .ok (.tierNoauth100 f) ∧
    decodeAt (.accField f) 0b00000101 = .ok (.tierEither101 f) ∧
    decodeAt (.accField f) 0b00000110 = .ok (.tierInvalid110 f) ∧
    decodeAt (.accField f) 0b00000111 = .ok (.tierInvalid111 f) := by cases f <;> exact ⟨rfl, rfl, rfl, rfl, rfl, rfl, rfl, rfl⟩

theorem test_decode_manufacturer_codes :
    decodeMfr 0b00000000 = .mfr00 ∧
    decodeMfr 0b00000100 = .mfr04 ∧
    decodeMfr 0b00000101 = .mfr05 ∧
    decodeMfr 0b00000111 = .mfr07 ∧
    decodeMfr 0b00001010 = .mfr0A ∧
    decodeMfr 0b00001011 = .mfr0B ∧
    decodeMfr 0b00001100 = .mfr0C ∧
    decodeMfr 0b00001111 = .mfr0F ∧
    decodeMfr 0b00010001 = .mfr11 ∧
    decodeMfr 0b00010011 = .mfr13 ∧
    decodeMfr 0b00011111 = .mfr1F ∧
    decodeMfr 0b00101011 = .mfr2B ∧
    decodeMfr 0b00101110 = .mfr2E ∧
    decodeMfr 0b00111001 = .mfr39 ∧
    decodeMfr 0b00111111 = .mfr3F ∧
    decodeMfr 0b01000001 = .mfr41 ∧
    decodeMfr 0b01000011 = .mfr43 ∧
    decodeMfr 0b01001010 = .mfr4A ∧
    decodeMfr 0b01001101 = .mfr4D ∧
    decodeMfr 0b01010101 = .mfr55 ∧
    decodeMfr 0b01101010 = .mfr6A ∧
    decodeMfr 0b01111100 = .mfr7C ∧
    decodeMfr 0b10001000 = .mfr88 ∧
    decodeMfr 0b10001010 = .mfr8A ∧
    decodeMfr 0b10100000 = .mfrA0 ∧
    decodeMfr 0b10100001 = .mfrA1 ∧
    decodeMfr 0b10110000 = .mfrB0 ∧
    decodeMfr 0b10110011 = .mfrB3 ∧
    decodeMfr 0b11000000 = .mfrC0 ∧
    decodeMfr 0b11000001 = .mfrC1 ∧
    decodeMfr 0b11000010 = .mfrC2 ∧
    decodeMfr 0b11010010 = .mfrD2 ∧
    decodeMfr 0b11100000 = .mfrE0 ∧
    decodeMfr 0b11100001 = .mfrE1 ∧
    decodeMfr 0b11110000 = .mfrF0 ∧
    decodeMfr 0b11111111 = .mfrFF ∧
    decodeMfr 0b10011010 = .mfrDefault 0x9A := by decide

theorem test_decode_error_codes :
    decodeAt (.errRecord 0 0 0) 0b00000001 = .ok .errNoBlockData ∧
    decodeAt (.errRecord 4 31 2) 0b00000010 = .ok (.errInvalidHexToken 4 31 2) ∧
    decodeAt (.errRecord 0 0 0) 0b00000011 = .ok .errTooShortForBlock0 ∧
    decodeAt (.errRecord 0 0 0) 0b00000100 = .ok .errMisalignedImage ∧
    decodeAt (.errRecord 0 0 0) 0b00000101 = .ok .errUnsupportedCardSize := by
  refine ⟨rfl, rfl, rfl, rfl, rfl⟩

theorem test_decode_refuses :
    decodeAt (.errRecord 0 0 0) 0x06 = .error .noSuchError ∧ decodeAt (.errRecord 0 0 0) 0x07 = .error .noSuchError ∧
    decodeAt (.errRecord 0 0 0) 0x00 = .error .noSuchError ∧ decodeAt (.errRecord 0 0 0) 0x02 = .error .lineZero ∧
    decodeAt (.errRecord 1 0 0) 0x01 = .error .recordNotZero ∧ decodeAt (.accField .read) 0x08 = .error .tooWide := by
  refine ⟨rfl, rfl, rfl, rfl, rfl, rfl⟩

theorem test_decodeTableWord_decode : decodeTableWord 8 0x06 = some .decode ∧ decodeTableWord 0 0 = none := by decide

/-! One step on the spec's vectors. `0x0A` ends a line. -/

/-- Rule R234's example: after a failed `DECODE`, `CLEAR` gives `ST = IDLE`, `ERR = 0`, `IMG_LEN = 0`. -/
theorem test_clear : look parseView (exec .clear { withImage 100 with err := ⟨.misalignedImage, 0, 0, 0⟩ }) =
    some (.idle, ⟨.noError, 0, 0, 0⟩, 0) := by decide

theorem test_clear_keeps_text : look (fun s => s.txt) (exec .clear (withText [0x41])) = some [(0, 0x41)] := by decide

/-- Vector 2.1 #8: any label, mixed whitespace, CR LF. -/
theorem test_parse_image : look (fun s => (parseView s, s.img))
    (exec .parse (withText [0x42, 0x6C, 0x6F, 0x63, 0x6B, 0x61, 0x64, 0x65, 0x20, 0x39, 0x3A, 0x20, 0x20, 0x09, 0x20, 0x30, 0x41, 0x20, 0x31, 0x20, 0x09, 0x0D, 0x0A])) =
    some ((.done, ⟨.noError, 0, 0, 0⟩, 2), [(0, 0x0A), (1, 0x01)]) := by decide

/-- Vector 2.1 #21: the error of line 4 counts all lines, and the earlier bytes are discarded. -/
theorem test_parse_invalid_token : look (fun s => (parseView s, s.img))
    (exec .parse (withText [0x78, 0x0A, 0x42, 0x6C, 0x6F, 0x63, 0x6B, 0x20, 0x30, 0x3A, 0x20, 0x30, 0x31, 0x20, 0x30, 0x32, 0x0A, 0x79, 0x0A, 0x42, 0x6C, 0x6F, 0x63, 0x6B, 0x20, 0x31, 0x3A, 0x20, 0x30, 0x33, 0x20, 0x5A, 0x5A, 0x20, 0x30, 0x34, 0x0A])) =
    some ((.error, ⟨.invalidHexToken, 4, 31, 2⟩, 0), []) := by decide

/-- Vector 2.2 #1: the document's fixture, whose check byte is not valid. -/
theorem test_validate_invalid : look resView (exec .validate (withArg 0x04 0x12 0x34 0x56 0x78)) =
    some ([0, 0x74, 0], true) := by decide

/-- Vector 2.2 #8. -/
theorem test_validate_valid : look resView (exec .validate (withArg 0xDE 0xAD 0xBE 0xEF 0x22)) =
    some ([1, 0x22, 0], true) := by decide

/-- Table 2.3: code 0xB3 is entry 27. -/
theorem test_lookup_row : look resView (exec .lookup (withArg 0xB3 1 2 3 4)) = some ([27, 0, 0], true) := by decide

/-- Table 2.3: code 0x06 has no row. -/
theorem test_lookup_default : look resView (exec .lookup (withArg 0x06 0 0 0 0)) = some ([36, 0, 0], true) := by decide

/-- Vector 2.4 #18: write field 111, third field 110 over two bytes. -/
theorem test_accdec_mixed : look resView (exec .accdec (withArg 0x7F 0x07 0x88 0 0)) = some ([3, 6, 6], true) := by decide

/-- Vector 2.4 #16. -/
theorem test_accdec_straddle : look resView (exec .accdec (withArg 0x6E 0x80 0x12 0 0)) = some ([3, 3, 5], true) := by decide

/-- Section 1.2: an image of 100 bytes is misaligned. -/
theorem test_resolve_misaligned : look parseView (exec .resolve (withImage 100)) =
    some (.error, ⟨.misalignedImage, 0, 0, 0⟩, 100) := by decide

/-- Section 1.2: an image of 80 bytes is no supported card. -/
theorem test_resolve_unsupported : look parseView (exec .resolve (withImage 80)) =
    some (.error, ⟨.unsupportedCardSize, 0, 0, 0⟩, 80) := by decide

/-- Sector 15 of a 1K card has its trailer in block 63, so its access bytes at 1014 (R68, R70); vector 2.4 #18. -/
theorem test_trailer_of_sector_15 :
    (trailer { withImage 1024 with img := [(1008, 0xA5), (1014, 0x7F), (1015, 0x07), (1016, 0x88)] }.image 15 63).bytes =
    [0xA5, 0, 0, 0, 0, 0, 0x7F, 0x07, 0x88, 0, 0, 0, 0, 0, 0, 0, 3, 6, 6] := by decide +kernel

/-- `GEOM` and `SEC_COUNT` of a 1K and of a 4K card (R209). -/
theorem test_resolve_geometry : [1024, 4096].map (fun n => look (fun s => (s.geom, s.secCount, s.status.st))
    (exec .resolve (withImage n))) = [some (.k1, 16, .done), some (.k4, 40, .done)] := by decide +kernel

/-- A text of one byte: the parse succeeds, block 0 is missing, the image stays (R228). -/
theorem test_decode_too_short : look (fun s => (parseView s, s.status.imgValid))
    (exec .decode (withText [0x42, 0x6C, 0x6F, 0x63, 0x6B, 0x3A, 0x35])) = some ((.error, ⟨.tooShortForBlock0, 0, 0, 0⟩, 1), true) := by decide

/-- Vector 2.1 #12 through `DECODE`: no colon. -/
theorem test_decode_no_colon : look (fun s => (parseView s, s.status.imgValid))
    (exec .decode (withText [0x42, 0x6C, 0x6F, 0x63, 0x6B, 0x20, 0x30, 0x20, 0x41, 0x41, 0x20, 0x42, 0x42, 0x0A])) = some ((.error, ⟨.invalidHexToken, 1, 13, 0⟩, 0), false) := by decide

/-- An illegal word sets `ILLCMD` and keeps the error state (R108, R236). -/
theorem test_illegal_rows : [Instr.illegalOpc7, .illegalBit3 0x0E, .illegalBit4 0x16, .illegalBit5 0x26, .illegalBit6 0x46,
    .illegalBit7 0x86].map (fun i => look (fun s => (s.status.illcmd, s.imgLen)) (exec i (withImage 100))) =
    List.replicate 6 (some (true, 100)) := by decide

/-- Table 2.4's field values, in the third field of an access string whose other fields are 3 and 6 (vector #17). -/
theorem test_tier_rows : [Instr.tierNoAccess000 .incDec, .tierAlways001 .incDec, .tierKeya010 .incDec, .tierKeyb011 .incDec,
    .tierNoauth100 .incDec, .tierEither101 .incDec, .tierInvalid110 .incDec, .tierInvalid111 .incDec].map
      (fun i => look resView (exec i (withArg 0x78 0x77 0x88 0 0))) =
    [0, 1, 2, 3, 4, 5, 6, 6].map (fun t => some ([3, 6, t], true)) := by decide

/-- Table 2.3's entries, in the table's order. -/
theorem test_mfr_rows : [Instr.mfr00, .mfr04, .mfr05, .mfr07, .mfr0A, .mfr0B, .mfr0C, .mfr0F, .mfr11, .mfr13, .mfr1F, .mfr2B, .mfr2E, .mfr39, .mfr3F, .mfr41, .mfr43, .mfr4A, .mfr4D, .mfr55, .mfr6A, .mfr7C, .mfr88, .mfr8A, .mfrA0, .mfrA1, .mfrB0, .mfrB3, .mfrC0, .mfrC1, .mfrC2, .mfrD2, .mfrE0, .mfrE1, .mfrF0, .mfrFF,
    .mfrDefault 0x9A].map
      (fun i => look (fun s => s.res.r0) (exec i State.reset)) =
    (List.range 37).map (fun n => some (BitVec.ofNat 8 n)) := by decide

/-- The five errors with their codes (R250), and the record of the second. -/
theorem test_err_rows : [Instr.errNoBlockData, .errInvalidHexToken 4 31 2, .errTooShortForBlock0, .errMisalignedImage,
    .errUnsupportedCardSize].map (fun i => look (fun s => (s.readReg 0x01, s.readReg 0x02, s.readReg 0x03)) (exec i State.reset)) =
    [some (2, 1, 0), some (2, 2, 4), some (2, 3, 0), some (2, 4, 0), some (2, 5, 0)] := by decide

/-! The port. -/

/-- `STATUS` of a valid image in state IDLE: bit 2 (R22). -/
theorem test_status_bits : (withImage 16).readReg 0x01 = 0x04 := by decide

/-- Only `v[7:0]` reaches `CMD` (R21). -/
theorem test_cmd_upper_bits : look (fun s => s.status.illcmd) (step (withAccess (.write .reg 0x00 0xFFFFFF07))) = some true := by
  decide

theorem test_fetch_word : look (fun s => s.status.st) (step (State.reset.withFetchWord 8 0x02)) = some .done := by decide

theorem test_run_setlen_too_long : look (fun s => s.txtLen) (step (withAccess (hostSetlen 65537))) = some 0 := by decide

/-- Section 1.1's fixture as Block0Info (R49), with the values that C1 and C2 settle. -/
theorem test_block0_info : (block0Of [0x04, 0x12, 0x34, 0x56, 0x78, 0x9A, 0x12]).info =
    { uid := [0x04, 0x12, 0x34, 0x56], checkByte := 0x78, manufacturerCode := 0x9A, productionYear := 2001,
       productionWeek := 2, manufacturerName := "Unknown Manufacturer", checksumValid := false,
       expectedCheckByte := some 0x74 } := by decide +kernel

/-- An entry of `SEC` as SectorTrailer (R43, R49), and one whose tier code is never produced (U4). -/
theorem test_sectorTrailer : { State.reset with sec := [(32, 0xA5), (38, 0x7F), (48, 3), (49, 6), (50, 6)] }.sectorTrailer 1 =
    some ⟨1, [0xA5, 0, 0, 0, 0, 0], 0x7F, 0, 0, 0, [0, 0, 0, 0, 0, 0], ⟨.keyB, .invalid, .invalid⟩⟩ ∧
    { State.reset with sec := [(48, 7)] }.sectorTrailer 1 = none := by decide

/-- Vector 2.1 #21 as FormatError, and its token `ZZ` as the host reads it (R24, R49). -/
theorem test_formatError : look (fun s => (s.formatError, s.errorToken))
    (exec .parse (withText [0x78, 0x0A, 0x42, 0x6C, 0x6F, 0x63, 0x6B, 0x20, 0x30, 0x3A, 0x20, 0x30, 0x31, 0x20, 0x30, 0x32, 0x0A, 0x79, 0x0A, 0x42, 0x6C, 0x6F, 0x63, 0x6B, 0x20, 0x31, 0x3A, 0x20, 0x30, 0x33, 0x20, 0x5A, 0x5A, 0x20, 0x30, 0x34, 0x0A])) =
    some (some (.invalidHexToken 4 31 2), [0x5A, 0x5A]) := by decide

theorem test_hex2 : hex2 0xAB = [0x41, 0x42] ∧ hex2 0x0F = [0x30, 0x46] := by decide

theorem test_dumpLine : dumpLine [0x20, 0x30] [0x04, 0x12] = [0x42, 0x6C, 0x6F, 0x63, 0x6B, 0x20, 0x30, 0x3A, 0x20, 0x30, 0x34, 0x20, 0x31, 0x32] := by decide

/-! Witnesses: for every statement with hypotheses, states and operands that meet them. -/

theorem witness_DecodeInvertsEncode : (Instr.illegalBit7 0x86).wellFormed = true ∧ (Instr.mfrDefault 0x9A).wellFormed = true ∧
    (Instr.errInvalidHexToken 1 0 0).wellFormed = true ∧ (Instr.tierInvalid111 .incDec).wellFormed = true := by decide
theorem witness_EncodeInvertsDecode : decodeAt .cmd 0xFF = .ok (.illegalBit3 0xFF) ∧
    decodeAt (.accField .incDec) 0x07 = .ok (.tierInvalid111 .incDec) ∧ decodeAt .mfrCode 0x01 = .ok (.mfrDefault 0x01) ∧
    decodeAt (.errRecord 1 0 0) 0x02 = .ok (.errInvalidHexToken 1 0 0) := ⟨rfl, rfl, rfl, rfl⟩
theorem witness_IllegalWordsAreExactlyThese : ((0x07 : Byte).toNat / 8 ≠ 0 ∨ (0x07 : Byte).toNat % 8 = 7) ∧
    ((0x08 : Byte).toNat / 8 ≠ 0 ∨ (0x08 : Byte).toNat % 8 = 7) ∧ ((0xFF : Byte).toNat / 8 ≠ 0 ∨ (0xFF : Byte).toNat % 8 = 7) := by
  decide
theorem witness_StepRunsTheCommandWritten : (withAccess (.write .reg 0x00 0xFFFFFF06)).pending = .write .reg 0x00 0xFFFFFF06 :: [] :=
  rfl
theorem witness_FetchWordIsRunNext : 255 < 256 ∧ 0 < 256 := by decide
theorem witness_EveryStepAnswersNext : State.reset.pending = [] := rfl
theorem witness_HostReadsChangeNothing : (withAccess (.read .sec 1279)).pending = .read .sec 1279 :: [] ∧
    ∃ t, step (withAccess (.read .sec 1279)) = .next t := ⟨rfl, _, rfl⟩
theorem witness_RegisterMapReads : 0x1F < 0x20 := by decide
theorem witness_GatedMemoryReads : 1279 < 1280 ∧ State.reset.txtMax ≤ 65536 ∧ 65535 < State.reset.txtMax ∧
    Memory.get? (withText [0x41]).txt 0 = some 0x41 ∧ Memory.get? (withText [0x41]).txt 1 = none ∧
    (∃ t, step (withAccess (.write .txt 1 0)) = .next t) ∧ HostAccess.write .txt 1 0 ≠ .reset ∧
    ∀ v, HostAccess.write .txt 1 0 ≠ .write .txt 65535 v :=
  ⟨by decide, by decide, by decide, by decide, by decide, ⟨_, rfl⟩, by decide, fun v h => by cases h⟩
theorem witness_HostPokeWritesOneTextByte : (withAccess (.write .txt 65535 1)).pending = .write .txt 65535 1 :: [] ∧
    65535 < (withAccess (.write .txt 65535 1)).txtMax ∧ (withAccess (.write .txt 65536 1)).txtMax ≤ 65536 ∧ (0 : Nat) ≠ 65535 :=
  ⟨rfl, by decide, by decide, by decide⟩
theorem witness_TxtLenWriteIsBounded : (withAccess (.write .reg 0x06 65536)).pending = .write .reg 0x06 65536 :: [] ∧
    (65536 : Word).toNat ≤ State.reset.txtMax ∧ State.reset.txtMax < (65537 : Word).toNat := ⟨rfl, by decide, by decide⟩
theorem witness_ArgWritesStoreTheLowByte : [0x18, 0x19, 0x1A, 0x1B, 0x1C].map (fun a => (withAccess (.write .reg a 0x1FF)).pending) =
    [[.write .reg 0x18 0x1FF], [.write .reg 0x19 0x1FF], [.write .reg 0x1A 0x1FF], [.write .reg 0x1B 0x1FF],
      [.write .reg 0x1C 0x1FF]] := rfl
/-- Every range of R39 has both its ends. -/
theorem witness_IgnoredWrites : (withAccess (.write .reg 0x01 1)).pending = .write .reg 0x01 1 :: [] ∧
    (∀ a ∈ [0x01, 0x05, 0x07, 0x14, 0x15, 0x17, 0x1D, 0x1F, 0x20], (0x15 ≤ a ∧ a ≤ 0x17) ∨ 0x1F < a ∨ (0x01 ≤ a ∧ a ≤ 0x05) ∨
      (0x07 ≤ a ∧ a ≤ 0x14) ∨ (0x1D ≤ a ∧ a ≤ 0x1F)) := ⟨rfl, by decide⟩
theorem memInv_reset : MemInv State.reset :=
  ⟨Memory.wf_nil _, Memory.wf_nil _, Memory.wf_nil _, by decide, by decide, by decide, by decide⟩
theorem witness_OutOfRangeAccessesNeverFault : MemInv (withAccess (.write .img 32768 1)) ∧ 0x1F < 0x20 ∧
    (withAccess (.write .txt 65536 1)).txtMax ≤ 65536 ∧ (withAccess (.write .img 32768 1)).txtMax / 2 ≤ 32768 ∧ 1279 < 1280 :=
  ⟨⟨Memory.wf_nil _, Memory.wf_nil _, Memory.wf_nil _, by decide, by decide, by decide, by decide⟩, by decide, by decide,
    by decide, by decide⟩
theorem witness_HostResetFromAnyState : (withAccess .reset).pending = .reset :: [] := rfl
theorem witness_IllcmdTellsTheLastCommandWrite :
    (∃ t, step (withAccess (.write .reg 0x00 0x06)) = .next t) ∧ (∃ t, step (withAccess (.write .reg 0x00 0x07)) = .next t) ∧
    (∃ t, step (withAccess .reset) = .next t) ∧ (∃ t, step (withAccess (.write .reg 0x01 0)) = .next t) ∧
    (∀ v, HostAccess.write .reg 0x01 0 ≠ .write .reg 0x00 v) :=
  ⟨⟨_, rfl⟩, ⟨_, rfl⟩, ⟨_, rfl⟩, ⟨_, rfl⟩, fun v h => by cases h⟩
theorem witness_MfrIdFindsTheRow : (0 < 36 ∧ 35 < 36) ∧ mfrId 0x01 = 36 ∧ mfrTable[mfrId 0xFF]? = some (0xFF, "Test Manufacturer/Custom Chip") := by
  refine ⟨by decide, by decide, by rfl⟩
theorem witness_AccDecProperties : (0x80 : Byte).getLsbD 7 = (0xFF : Byte).getLsbD 7 := by decide
theorem witness_FailingOperationsRaiseTheirRow : parse State.reset.text = .error .noBlockData ∧
    resolve State.reset.image = .error .unsupportedCardSize ∧ resolve (withImage 17).image = .error .misalignedImage ∧
    parse (withText [0x42, 0x6C, 0x6F, 0x63, 0x6B, 0x3A, 0x35]).text = .ok [5] ∧ decodeImage [5] = .error .tooShortForBlock0 := ⟨by rfl, by rfl, by rfl, by rfl, by rfl⟩
theorem inv_reset : Inv State.reset :=
  ⟨by decide, by decide, by decide, by decide, by decide, by decide, by decide, by decide, by decide, by decide, by decide, by decide⟩
theorem witness_ErrorsNeverTouchInputs : Inv State.reset ∧
    [Instr.parse, .resolve, .decode].all (fun i => look (fun t => decide (t.err.code ≠ .noError)) (exec i State.reset) == some true) = true :=
  ⟨inv_reset, by decide⟩
/-- Every range of R97 at both its ends, and the bytes beside them. -/
theorem witness_HexDigitTable : [0x30, 0x39, 0x41, 0x46, 0x61, 0x66].map digit? = [some 0, some 9, some 10, some 15, some 10, some 15] ∧
    [0x2F, 0x3A, 0x40, 0x47, 0x60, 0x67].map digit? = [none, none, none, none, none, none] := by decide
theorem witness_TokenValidityAndValue : digit? 0x46 = some 15 ∧ digit? 0x66 = some 15 := by decide
theorem witness_ParsedImageIsBounded : parse (withText [0x42, 0x6C, 0x6F, 0x63, 0x6B, 0x3A, 0x35]).text = .ok [5] ∧
    (withText [0x42, 0x6C, 0x6F, 0x63, 0x6B, 0x3A, 0x35]).txtLen.toNat ≤ (withText [0x42, 0x6C, 0x6F, 0x63, 0x6B, 0x3A, 0x35]).txtMax ∧ (1 : Nat) ≤ 1 := ⟨by rfl, by decide, by decide⟩
theorem witness_ErrorRecordIsBounded : parse [0x42, 0x6C, 0x6F, 0x63, 0x6B] = .error (.invalidHexToken 1 5 0) ∧ parse [] = .error .noBlockData ∧
    parse (withText [0x42, 0x6C, 0x6F, 0x63, 0x6B]).text = .error (.invalidHexToken 1 5 0) := ⟨by rfl, by rfl, by rfl⟩
theorem witness_RenderedDumpParsesBack : ([([], [0x00]), ([0x20, 0x30], [0xFF, 0x80])] : List (List Byte × List Byte)) ≠ [] ∧
    ∀ l ∈ ([([], [0x00]), ([0x20, 0x30], [0xFF, 0x80])] : List (List Byte × List Byte)), chColon ∉ l.1 ∧ chLf ∉ l.1 ∧ l.2 ≠ [] := by
  decide
theorem witness_ParseWritesTheImage : parse (withText [0x42, 0x6C, 0x6F, 0x63, 0x6B, 0x3A, 0x35]).text = .ok [5] ∧ parse State.reset.text = .error .noBlockData ∧
    parse (withText [0x42, 0x6C, 0x6F, 0x63, 0x6B]).text = .error (.invalidHexToken 1 5 0) := ⟨by rfl, by rfl, by rfl⟩
theorem witness_ParseStoresTheImageReadBack : parse (withText [0x42, 0x6C, 0x6F, 0x63, 0x6B, 0x3A, 0x35]).text = .ok [5] ∧ (0 : Nat) < [5].length ∧ [5].length ≤ 1 ∧
    parse State.reset.text = .error .noBlockData ∧ (withText [0x42, 0x6C, 0x6F, 0x63, 0x6B, 0x3A, 0x35]).txtLen.toNat ≤ (withText [0x42, 0x6C, 0x6F, 0x63, 0x6B, 0x3A, 0x35]).txtMax ∧
    { State.reset with txtLen := 65536 }.txtLen.toNat ≤ State.reset.txtMax :=
  ⟨by rfl, by decide, by decide, by rfl, by decide, by decide⟩
theorem witness_PartitionIsContiguous : (sectorPartition 65)[15]? = some ⟨15, 60, 4, 63⟩ ∧ (sectorPartition 65).length < 40 ∧
    (sectorPartition 256)[39]? = some ⟨39, 240, 16, 255⟩ := by decide
theorem witness_ResolveChecksAlignmentThenSize : (withImage 1).imgLen.toNat % 16 ≠ 0 ∧ (withImage 1023).imgLen.toNat % 16 ≠ 0 ∧
    (withImage 0).imgLen.toNat % 16 = 0 ∧ (withImage 0).imgLen.toNat ≠ 1024 ∧ (withImage 0).imgLen.toNat ≠ 4096 ∧
    (withImage 1040).imgLen.toNat % 16 = 0 ∧ (withImage 1040).imgLen.toNat ≠ 1024 ∧ (withImage 1040).imgLen.toNat ≠ 4096 := by decide
theorem witness_ResolveBuildsTheSectorTable : ((withImage 1024).imgLen.toNat = 1024 ∧ (16 : Nat) = 16) ∧
    ((withImage 4096).imgLen.toNat = 4096 ∧ (40 : Nat) = 40) ∧ 15 < 16 ∧ 39 < 40 := by decide

/-! Texts of whole images, for the statements about `DECODE`: one Block line of the tokens "00". -/

/-- The digit `0`, and the byte that the token "00" stands for. -/
def ch0 : Byte := 0x30
def ch00 : Byte := 0x00

/-- `n + 1` tokens "00" with single spaces between. -/
def zeros : Nat → List Byte
  | 0 => [ch0, ch0]
  | n + 1 => ch0 :: ch0 :: chSpace :: zeros n

/-- "Block:" and `n + 1` tokens "00". -/
def zeroText (n : Nat) : List Byte := blockWord ++ chColon :: zeros n

theorem zeros_last (n : Nat) : ∃ zs, zeros n = zs ++ [ch0] := by
  induction n with
  | zero => exact ⟨[ch0], rfl⟩
  | succ n ih => obtain ⟨zs, h⟩ := ih; exact ⟨ch0 :: ch0 :: chSpace :: zs, by simp [zeros, h]⟩

theorem zeros_head (n : Nat) : (zeros n).dropWhile isWs = zeros n := by cases n <;> rfl

theorem zeros_trim (n : Nat) : trimRight (zeros n) = zeros n := by
  obtain ⟨zs, h⟩ := zeros_last n
  have hw : isWs ch0 = false := by decide
  simp [trimRight, h, hw]

theorem zeros_length (n : Nat) : (zeros n).length = 3 * n + 2 := by
  induction n with
  | zero => rfl
  | succ n ih => simp [zeros, ih]; omega

theorem zeros_no_lf (n : Nat) : chLf ∉ zeros n := by
  induction n with
  | zero => decide
  | succ n ih => simp only [zeros, List.mem_cons, not_or]; exact ⟨by decide, by decide, by decide, ih⟩

theorem splitOn_not_mem {sep : Byte} {T : List Byte} (h : sep ∉ T) : splitOn sep T = [T] := by
  induction T with
  | nil => rfl
  | cons x xs ih =>
    simp only [List.mem_cons, not_or] at h
    simp [splitOn, Ne.symm h.1, ih h.2]

theorem zeros_split (n : Nat) : splitOn chSpace (zeros n) = List.replicate (n + 1) [ch0, ch0] := by
  induction n with
  | zero => rfl
  | succ n ih =>
    have h0 : ch0 ≠ chSpace := by decide
    rw [List.replicate_succ, ← ih]
    simp [zeros, splitOn, h0]

theorem zeros_scan (n line t : Nat) :
    scanTokens line t (List.replicate n [ch0, ch0]) = .ok (List.replicate n ch00) := by
  have h0 : tokenValue? [ch0, ch0] = some ch00 := by decide
  induction n generalizing t with
  | zero => rfl
  | succ n ih => simp [List.replicate_succ, scanTokens, h0, ih]

theorem zeroText_parse (n : Nat) : parse (zeroText n) = .ok (List.replicate (n + 1) ch00) := by
  have hb : isBlockLine (zeroText n) = true := rfl
  have hc : (zeroText n).findIdx? (· == chColon) = some 5 := rfl
  have hd : (zeroText n).drop (5 + 1) = zeros n := rfl
  have hn : chLf ∉ zeroText n := by
    simp only [zeroText, List.mem_append, List.mem_cons, not_or]
    exact ⟨by decide, by decide, zeros_no_lf n⟩
  have hl : ∀ p, scanLine 1 p (zeroText n) = .ok (List.replicate (n + 1) ch00) := fun p => by
    simp only [scanLine, hb, if_true, hc, hd, zeros_head, zeros_trim, zeros_split, zeros_scan]
  simp [parse, splitOn_not_mem hn, scanLines, hl, List.replicate_succ]

theorem zeroText_length (n : Nat) : (zeroText n).length = 3 * n + 8 := by
  simp [zeroText, zeros_length, blockWord]

theorem get?_cellsFrom (T : List Byte) (a b : Nat) :
    Memory.get? (cellsFrom a T) b = if a ≤ b then T[b - a]? else none := by
  induction T generalizing a with
  | nil => simp [cellsFrom]
  | cons v vs ih =>
    simp only [cellsFrom, Memory.get?, ih]
    by_cases h : a = b
    · subst h; simp
    · by_cases h2 : a ≤ b
      · obtain ⟨k, hk⟩ : ∃ k, b - a = k + 1 := ⟨b - a - 1, by omega⟩
        rw [if_neg h, if_pos (by omega), if_pos h2, hk, List.getElem?_cons_succ, show b - (a + 1) = k by omega]
      · rw [if_neg h, if_neg (by omega), if_neg h2]

/-- A loaded text is the operand of `PARSE` and `DECODE`. -/
theorem text_withText (T : List Byte) (h : T.length < 2 ^ 32) : (withText T).text = T := by
  have hl : (withText T).txtLen.toNat = T.length := by
    show (BitVec.ofNat 32 T.length).toNat = _
    rw [BitVec.toNat_ofNat, Nat.mod_eq_of_lt h]
  apply List.ext_getElem
  · simp [State.text, hl]
  · intro k h1 h2
    simp [State.text, State.txtByte, Memory.read, withText, get?_cellsFrom, h2]

theorem witness_DecodeFillsBlock0AndLayout :
    (parse (withText (zeroText 1023)).text = .ok (List.replicate 1024 ch00) ∧ (List.replicate 1024 ch00).length = 1024) ∧
    (parse (withText (zeroText 4095)).text = .ok (List.replicate 4096 ch00) ∧ (List.replicate 4096 ch00).length = 4096) := by
  rw [text_withText _ (by rw [zeroText_length]; decide), text_withText _ (by rw [zeroText_length]; decide)]
  exact ⟨⟨zeroText_parse 1023, List.length_replicate ..⟩, zeroText_parse 4095, List.length_replicate ..⟩

theorem zeroText_decodes (n : Nat) (hn : n + 1 = 1024 ∨ n + 1 = 4096) :
    ∃ t, exec .decode (withText (zeroText n)) = .next t ∧ t.err.code = .noError := by
  have hp : parse (withText (zeroText n)).text = .ok (List.replicate (n + 1) ch00) := by
    rw [text_withText _ (by rw [zeroText_length]; omega), zeroText_parse]
  rcases execDecode_cases (withText (zeroText n)) with ⟨_, _, _, _, _, h⟩ | ⟨I, e, h1, h2, _⟩ | ⟨e, h1, _⟩
  · exact ⟨_, h, rfl⟩
  · rw [hp] at h1; cases h1
    rcases resolve_cases (List.replicate (n + 1) ch00) with ⟨a, _⟩ | ⟨_, a, b, _⟩ | ⟨_, b⟩
    · rw [List.length_replicate] at a; omega
    · rw [List.length_replicate] at a b; omega
    · rw [decodeImage, if_neg (by rw [List.length_replicate]; omega), b] at h2; cases h2
  · rw [hp] at h1; cases h1

theorem witness_DecodeMatchesParseThenResolve :
    (∃ t, exec .decode (withText (zeroText 1023)) = .next t ∧ t.err.code = .noError) ∧
    (∃ t, exec .decode (withText (zeroText 4095)) = .next t ∧ t.err.code = .noError) :=
  ⟨zeroText_decodes 1023 (.inl rfl), zeroText_decodes 4095 (.inr rfl)⟩

/-- Images of 1, 15, 17 and 16 bytes: the three errors of the later stages, at the ends of their ranges. -/
theorem witness_DecodeOutcomeOfEachError :
    ([0, 14, 15, 16].map fun n => (parse (withText (zeroText n)).text).toOption) =
      [some [0], some (List.replicate 15 0), some (List.replicate 16 0), some (List.replicate 17 0)] ∧
    parse State.reset.text = .error .noBlockData ∧ parse (withText [0x42, 0x6C, 0x6F, 0x63, 0x6B]).text = .error (.invalidHexToken 1 5 0) :=
  ⟨by rfl, by rfl, by rfl⟩
theorem witness_DecodeDependsOnTheTextAlone : (withText [0x42]).text = { withText [0x42] with imgLen := 7 }.text ∧
    ((withText [0x42]).txtLen = { withText [0x42] with imgLen := 7, txtMax := 16 }.txtLen ∧
      (withText [0x42]).txtLen.toNat ≤ (withText [0x42]).txtMax ∧ (withText [0x42]).txtLen.toNat ≤ 16 ∧
      ∀ a, a < (withText [0x42]).txtLen.toNat →
        (withText [0x42]).hostRead .txt a = { withText [0x42] with imgLen := 7, txtMax := 16 }.hostRead .txt a) := by
  refine ⟨rfl, rfl, by decide, by decide, fun a ha => ?_⟩
  have ha : a < 1 := ha
  have : a = 0 := by omega
  subst this; rfl
theorem not_StartsCommand_poke (i : Instr) : ¬ StartsCommand (.write .txt 0 1) i := by
  rintro ⟨v, h, _⟩; cases h
theorem witness_InputsChangeOnlyByTheirWrites : (withAccess (.write .reg 0x17 1)).pending = .write .reg 0x17 1 :: [] ∧
    (∃ t, step (withAccess (.write .reg 0x17 1)) = .next t) ∧ HostAccess.write .reg 0x17 1 ≠ .reset ∧
    (∀ a v, HostAccess.write .reg 0x17 1 ≠ .write .txt a v) ∧ (∀ v, HostAccess.write .reg 0x17 1 ≠ .write .reg 0x06 v) ∧
    (∀ a v, 0x18 ≤ a → a ≤ 0x1C → HostAccess.write .reg 0x17 1 ≠ .write .reg a v) ∧
    ¬ StartsCommand (.write .reg 0x17 1) .clear :=
  ⟨rfl, ⟨_, rfl⟩, by decide, fun a v h => (by cases h), fun v h => (by cases h), fun a v h1 h2 h => (by cases h; omega),
    fun h => (by obtain ⟨v, h, _⟩ := h; cases h)⟩
theorem witness_ResultsChangeOnlyByTheirCommands : (withAccess (.write .txt 0 1)).pending = .write .txt 0 1 :: [] ∧
    (∃ t, step (withAccess (.write .txt 0 1)) = .next t) ∧ HostAccess.write .txt 0 1 ≠ .reset ∧
    (∀ i, ¬ StartsCommand (.write .txt 0 1) i) := ⟨rfl, ⟨_, rfl⟩, by decide, not_StartsCommand_poke⟩
theorem resultInv_reset : ResultInv State.reset :=
  ⟨fun h => (by cases h), fun _ => rfl, fun h => (by cases h), fun _ => ⟨rfl, rfl, rfl⟩, fun _ => rfl⟩
theorem witness_StepKeepsInvariants : Inv State.reset ∧ ∃ t, step State.reset = .next t := ⟨inv_reset, _, rfl⟩
theorem witness_StepKeepsMemoryForm : Inv State.reset ∧ MemInv State.reset ∧ ∃ t, step State.reset = .next t :=
  ⟨inv_reset, memInv_reset, _, rfl⟩
theorem witness_StepKeepsResultsOfTheImage : ResultInv State.reset ∧ ∃ t, step State.reset = .next t :=
  ⟨resultInv_reset, _, rfl⟩

end Sys2Proof.Tests
end

/-! The facts about `Parse` and `Resolve` that the invariants rest on, the invariants of R48 cut into three independent
parts, and the three statements about every step (O58 to O60). -/

namespace Sys2Proof.Machine

/-! The two writes that are bounded by `TXT_MAX`. -/

/-- A host write to `TXT_LEN` is stored or ignored (R25). -/
theorem writeTxtLen_cases (v : Word) (s : State) :
    (v.toNat ≤ s.txtMax ∧ s.writeTxtLen v = { s with txtLen := v }) ∨ (s.txtMax < v.toNat ∧ s.writeTxtLen v = s) := by
  by_cases h : v.toNat ≤ s.txtMax
  · exact .inl ⟨h, if_pos h⟩
  · exact .inr ⟨Nat.lt_of_not_le h, if_neg h⟩

/-- A host write to `TXT` is stored or ignored (R74). -/
theorem writeTxt_cases (a : Nat) (v : Byte) (s : State) :
    (a < s.txtMax ∧ s.writeTxt a v = { s with txt := Memory.write .txt s.txt a v }) ∨
    (s.txtMax ≤ a ∧ s.writeTxt a v = s) := by
  by_cases h : a < s.txtMax
  · exact .inl ⟨h, if_pos h⟩
  · exact .inr ⟨Nat.le_of_not_lt h, if_neg h⟩

/-! What the parser and the layout resolver guarantee about their answers. -/

/-- A parsed image has at least one byte and less than half as many as the text (R81, R139). -/
theorem parse_ok_length {T I : List Byte} (h : parse T = .ok I) : 1 ≤ I.length ∧ 2 * I.length + 5 ≤ T.length := by
  rcases parse_cases T with ⟨J, hJ, hscan, hne⟩ | ⟨he, -⟩ | ⟨e, he, -⟩
  · obtain rfl : J = I := by simpa [hJ] using h
    have hcut := splitOn_length chLf T
    have hcount := splitOn_count chLf T
    have hlen := List.length_pos_of_ne_nil hne
    rcases scanLines_ok hscan with hnil | hbound
    · exact absurd hnil hne
    · omega
  · simp [he] at h
  · simp [he] at h

/-- A parse error other than "no block data" names a line of the text, counted from 1 (R24, R137). -/
theorem parse_error_cases {T : List Byte} {e : FormatError} (h : parse T = .error e) :
    e = .noBlockData ∨ ∃ line off len, e = .invalidHexToken line off len ∧ 1 ≤ line ∧ line ≤ T.length := by
  rcases parse_cases T with ⟨J, hJ, -⟩ | ⟨he, -⟩ | ⟨e', he, hscan⟩
  · simp [hJ] at h
  · left; simpa [he] using h.symm
  · obtain rfl : e' = e := by simpa [he] using h
    obtain ⟨line, off, len, rfl, hlo, hhi, -⟩ := scanLines_error hscan
    have hcut := splitOn_length chLf T
    exact .inr ⟨line, off, len, rfl, hlo, by omega⟩

/-- A resolve error comes from an image that has no geometry, and it is not a token error (R197, R198). -/
theorem resolve_error_cases {I : List Byte} {e : FormatError} (h : resolve I = .error e) :
    I.length ≠ 1024 ∧ I.length ≠ 4096 ∧ e.code ≠ .invalidHexToken := by
  rcases resolve_cases I with ⟨hmod, he⟩ | ⟨-, h1, h4, he⟩ | ⟨-, hok⟩
  · obtain rfl : .misalignedImage = e := by simpa [he] using h
    exact ⟨by omega, by omega, by simp [FormatError.code]⟩
  · obtain rfl : .unsupportedCardSize = e := by simpa [he] using h
    exact ⟨h1, h4, by simp [FormatError.code]⟩
  · simp [hok] at h

/-- The stages of `DECODE` after the parse raise no token error (R222). -/
theorem decodeImage_error_code {I : List Byte} {e : FormatError} (h : decodeImage I = .error e) :
    e.code ≠ .invalidHexToken := by
  unfold decodeImage at h
  split at h
  · cases h; simp [FormatError.code]
  · split at h
    · next he => cases h; exact (resolve_error_cases he).2.2
    · cases h

theorem text_length_lt (s : State) : s.text.length < 2 ^ 32 := by rw [text_length]; exact s.txtLen.isLt

/-- The image of a parsed text fits the length register (R6, R26). -/
theorem parse_ok_toNat_length {s : State} {I : List Byte} (h : parse s.text = .ok I) :
    (BitVec.ofNat 32 I.length).toNat = I.length := by
  have hI := parse_ok_length h
  have hT := text_length_lt s
  rw [BitVec.toNat_ofNat, Nat.mod_eq_of_lt (by omega)]

/-! The three parts of R48: the error record (items 1 and 7), the image with its layout (items 2 to 6), and the text
length (item 8). Each part is about its own registers, so an operation keeps a part whose registers it leaves alone. -/

/-- Items 1 and 7 of R48, about `ST` and the error record. -/
structure RecordForm (st : St) (r : ErrRegs) : Prop where
  error_iff : st = .error ↔ r.code ≠ .noError
  record_zero : r.code ≠ .invalidHexToken → r.line = 0 ∧ r.tokOff = 0 ∧ r.tokLen = 0
  record_line : r.code = .invalidHexToken → 1 ≤ r.line.toNat

/-- Items 2 to 6 of R48, about `IMG_VALID`, `B0_VALID`, `LAY_VALID`, `IMG_LEN`, `GEOM` and `SEC_COUNT`. -/
structure ImageForm (imgValid b0Valid layValid : Bool) (imgLen : Word) (geom : Geom) (secCount : BitVec 6) : Prop where
  image_iff : imgValid = true ↔ 1 ≤ imgLen.toNat
  layout_image : layValid = true → imgValid = true ∧ (imgLen.toNat = 1024 ∨ imgLen.toNat = 4096)
  block0_layout : b0Valid = true → layValid = true
  layout_geom : layValid = true ↔ geom ≠ .none
  geom_count : geom ≠ .none ↔ secCount ≠ 0
  geometry : (geom = .k1 ∧ secCount = 16 ∧ imgLen.toNat = 1024) ∨
    (geom = .k4 ∧ secCount = 40 ∧ imgLen.toNat = 4096) ∨ (geom = .none ∧ secCount = 0)
  layout_sum : layValid = true →
    (((List.range secCount.toNat).map fun k => if k ≤ 31 then 4 else 16).sum) * 16 = imgLen.toNat

/-- Item 8 of R48 and the range of the parameter (R6). -/
structure TextForm (txtLen : Word) (txtMax : Nat) : Prop where
  txtLen_le : txtLen.toNat ≤ txtMax
  txtMax_range : Config.txtMaxLeast ≤ txtMax ∧ txtMax < 2 ^ 32

/-- The invariants of R48 are their three parts. -/
theorem inv_iff (s : State) : Inv s ↔ RecordForm s.status.st s.err ∧
    ImageForm s.status.imgValid s.status.b0Valid s.status.layValid s.imgLen s.geom s.secCount ∧
    TextForm s.txtLen s.txtMax :=
  ⟨fun h => ⟨{ h with }, { h with }, { h with }⟩, fun ⟨hr, hi, ht⟩ => { hr, hi, ht with }⟩

/-- Without an error the record is clear. -/
theorem RecordForm.clear {st : St} (h : st ≠ .error) : RecordForm st .clear :=
  ⟨by simp [h, ErrRegs.clear], fun _ => ⟨rfl, rfl, rfl⟩, fun hc => by cases hc⟩

theorem RecordForm.idle : RecordForm .idle .clear := .clear (by decide)
theorem RecordForm.done : RecordForm .done .clear := .clear (by decide)

/-- A raise of an error that is no token error leaves its code alone in the record. -/
theorem RecordForm.raise {e : FormatError} (h : e.code ≠ .invalidHexToken) :
    RecordForm .error (ErrRegs.record e .clear) := by
  rw [ErrRegs.record_clear e h]
  exact ⟨by simp [e.code_ne], fun _ => ⟨rfl, rfl, rfl⟩, fun hc => absurd hc h⟩

/-- A raised parse error has a good record: the line number of a text below `2^32` bytes is not cut to 0. -/
theorem RecordForm.raise_parse {T : List Byte} {e : FormatError} (h : parse T = .error e) (hT : T.length < 2 ^ 32) :
    RecordForm .error (ErrRegs.record e .clear) := by
  rcases parse_error_cases h with rfl | ⟨line, off, len, rfl, hlo, hhi⟩
  · exact .raise (by simp [FormatError.code])
  · have hline : (BitVec.ofNat 32 line).toNat = line := by
      rw [BitVec.toNat_ofNat, Nat.mod_eq_of_lt (by omega)]
    exact ⟨by simp [ErrRegs.record], fun hc => absurd rfl hc, fun _ => hline.symm ▸ hlo⟩

/-- No image, no block 0, no layout: what reset, `CLEAR` and the "start" block of `PARSE` leave. -/
theorem ImageForm.empty : ImageForm false false false 0 .none 0 := by
  constructor <;> simp

/-- An image alone: what `PARSE` leaves, and `DECODE` of an image without a layout. -/
theorem ImageForm.image {len : Word} (h : 1 ≤ len.toNat) : ImageForm true false false len .none 0 := by
  constructor <;> simp [h]

/-- An image with the layout resolved from it, with or without block 0 (R202). -/
theorem ImageForm.layout {I : List Byte} {lay : CardLayout} {len : Word} (h : resolve I = .ok lay)
    (hlen : len.toNat = I.length) (b0Valid : Bool) :
    ImageForm true b0Valid true len (if lay.blocks = 64 then .k1 else .k4) (.ofNat 6 lay.sectors.length) := by
  rcases resolve_ok_cases h with ⟨hI, hb, hn⟩ | ⟨hI, hb, hn⟩ <;> rw [hI] at hlen <;> rw [hb, hn]
  · constructor <;> simp [hlen]
    decide
  · constructor <;> simp [hlen]
    decide

/-- An image whose layout is dropped because it has none: block 0 was not valid either (R48 items 3 and 4). -/
theorem ImageForm.dropLayout {iv bv lv : Bool} {len : Word} {g : Geom} {n : BitVec 6} (h : ImageForm iv bv lv len g n)
    (h1 : len.toNat ≠ 1024) (h4 : len.toNat ≠ 4096) : ImageForm iv bv false len .none 0 := by
  have hbv : bv = false := by
    by_contra hb
    rcases (h.layout_image (h.block0_layout (by simpa using hb))).2 with hl | hl
    · exact h1 hl
    · exact h4 hl
  subst hbv
  exact ⟨h.image_iff, by simp, by simp, by simp, by simp, by simp, by simp⟩

/-! Every step keeps the three parts. -/

theorem inv_of_reset : Inv State.reset :=
  (inv_iff _).2 ⟨.idle, .empty, by decide, by decide⟩

/-- Every step keeps the invariants of R48: each outcome gives a record, an image form and a text form that are good. -/
theorem inv_step {s t : State} (h : Inv s) (hs : step s = .next t) : Inv t := by
  rw [inv_iff] at h ⊢
  apply step_preserves (P := fun s => RecordForm s.status.st s.err ∧
    ImageForm s.status.imgValid s.status.b0Valid s.status.layValid s.imgLen s.geom s.secCount ∧
    TextForm s.txtLen s.txtMax) hs h
  case pop => exact fun _ _ h => h
  case read => exact fun _ _ h => h
  case setarg => exact fun _ _ h => h
  case illegal => exact fun _ h => h
  case poke =>
    intro s a v h
    rcases writeTxt_cases a v s with ⟨-, hw⟩ | ⟨-, hw⟩ <;> rw [hw] <;> exact h
  case setlen =>
    rintro s v ⟨hr, hi, ht⟩
    rcases writeTxtLen_cases v s with ⟨hv, hw⟩ | ⟨-, hw⟩ <;> rw [hw]
    · exact ⟨hr, hi, hv, ht.txtMax_range⟩
    · exact ⟨hr, hi, ht⟩
  case reset => exact fun s ⟨_, _, ht⟩ => ⟨.idle, .empty, Nat.zero_le _, ht.txtMax_range⟩
  case clear => exact fun s ⟨_, _, ht⟩ => ⟨.idle, .empty, Nat.zero_le _, ht.txtMax_range⟩
  case leaf => exact fun s _ _ _ ⟨_, hi, ht⟩ => ⟨.done, hi, ht⟩
  case parse_ok =>
    intro s I ⟨_, _, ht⟩ hp
    exact ⟨.done, .image (parse_ok_toNat_length hp ▸ (parse_ok_length hp).1), ht⟩
  case parse_error =>
    exact fun s e ⟨_, _, ht⟩ hp => ⟨.raise_parse hp (text_length_lt s), .empty, ht⟩
  case resolve_ok =>
    intro s lay ⟨_, hi, ht⟩ hr
    have himg : s.status.imgValid = true := by
      have hlen := image_length s
      rw [hi.image_iff]
      rcases resolve_ok_cases hr with ⟨hI, -⟩ | ⟨hI, -⟩ <;> omega
    refine ⟨.done, ?_, ht⟩
    show ImageForm s.status.imgValid _ _ _ _ _
    rw [himg]
    exact .layout hr (image_length s).symm _
  case resolve_error =>
    intro s e ⟨_, hi, ht⟩ hr
    obtain ⟨h1, h4, hcode⟩ := resolve_error_cases hr
    rw [image_length] at h1 h4
    exact ⟨.raise hcode, hi.dropLayout h1 h4, ht⟩
  case decode_ok =>
    exact fun s I lay ⟨_, _, ht⟩ hp hr =>
      ⟨.done, .layout hr (parse_ok_toNat_length hp) true, ht⟩
  case decode_error =>
    intro s I e ⟨_, _, ht⟩ hp he
    exact ⟨.raise (decodeImage_error_code he), .image (parse_ok_toNat_length hp ▸ (parse_ok_length hp).1), ht⟩

/-- Settles O58: the three parts of the invariants hold at reset and every outcome of a step keeps them. -/
theorem stepKeepsInvariants : Obligations.StepKeepsInvariants :=
  ⟨inv_of_reset, fun _ _ => inv_step⟩

/-! The form and the extent of the memories. -/

theorem Memory.below_nil (n : Nat) : Memory.below [] n := by simp [Memory.below]

/-- The entries of a layout stay below the end of `SEC` (R43). -/
theorem below_writeEntries {L : List SectorTrailer} (hL : ∀ x ∈ L, x.sectorIndex < 40 ∧ x.bytes.length = 19)
    {m : Memory} (h : m.below secBytes) : Memory.below (L.foldl writeEntry m) secBytes := by
  induction L generalizing m with
  | nil => exact h
  | cons x xs ih =>
    obtain ⟨hidx, hlen⟩ := hL x (by simp)
    exact ih (fun y hy => hL y (by simp [hy])) (Memory.below_writeRange h _ _ (by unfold secBytes; omega))

/-- A host write to `TXT` keeps the form and the extent of `TXT`. -/
theorem MemInv.writeTxt {s : State} (h : MemInv s) (a : Nat) (v : Byte) : MemInv (s.writeTxt a v) := by
  rcases writeTxt_cases a v s with ⟨ha, hw⟩ | ⟨-, hw⟩ <;> rw [hw]
  · exact { h with txt_wf := Memory.wf_write h.txt_wf a v, txt_below := Memory.below_write (sp := .txt) h.txt_below ha v }
  · exact h

theorem MemInv.writeTxtLen {s : State} (h : MemInv s) (v : Word) : MemInv (s.writeTxtLen v) := by
  rcases writeTxtLen_cases v s with ⟨-, hw⟩ | ⟨-, hw⟩ <;> rw [hw]
  · exact { h with }
  · exact h

/-- The "start" block of `PARSE` and `DECODE` empties `SEC` and keeps the cells of `TXT` and `IMG`. -/
theorem MemInv.startImage {s : State} (h : MemInv s) : MemInv s.startImage :=
  { h with sec_wf := Memory.wf_nil _, sec_below := Memory.below_nil _, imgLen_le := Nat.zero_le _ }

theorem MemInv.startLayout {s : State} (h : MemInv s) : MemInv s.startLayout :=
  { h with sec_wf := Memory.wf_nil _, sec_below := Memory.below_nil _ }

/-- An image that fits into `IMG` keeps its form and extent (R81). -/
theorem MemInv.storeImage {s : State} (h : MemInv s) {I : List Byte} (hI : I.length ≤ s.txtMax / 2) :
    MemInv (s.storeImage I) :=
  { h with
    img_wf := wf_storeImage h.img_wf I
    img_below := Memory.below_writeRange h.img_below 0 I (by simpa using hI)
    imgLen_le := le_trans (by rw [storeImage_imgLen, BitVec.toNat_ofNat]; exact Nat.mod_le _ _) hI }

theorem MemInv.storeLayout {s : State} (h : MemInv s) {I : List Byte} {lay : CardLayout} (hr : resolve I = .ok lay) :
    MemInv (s.storeLayout lay) :=
  { h with
    sec_wf := wf_writeEntries _ h.sec_wf
    sec_below := below_writeEntries (resolve_ok_entries hr) h.sec_below }

/-- A raise leaves the memories alone. -/
theorem MemInv.raise {s : State} (h : MemInv s) (e : FormatError) : MemInv (s.raise e) := { h with }

theorem MemInv.markDone {s : State} (h : MemInv s) : MemInv s.markDone := { h with }

theorem MemInv.storeBlock0 {s : State} (h : MemInv s) (b : Block0Regs) : MemInv (s.storeBlock0 b) := { h with }

/-- The image of a text within `TXT_MAX` fits into `IMG` (R6, R81). -/
theorem parse_ok_length_le_imgCap {s : State} {I : List Byte} (hlen : s.txtLen.toNat ≤ s.txtMax)
    (h : parse s.text = .ok I) : I.length ≤ s.txtMax / 2 := by
  have hI := parse_ok_length h
  rw [text_length] at hI
  omega

theorem memInv_of_reset : MemInv State.reset :=
  ⟨Memory.wf_nil _, Memory.wf_nil _, Memory.wf_nil _, Memory.below_nil _, Memory.below_nil _, Memory.below_nil _,
    Nat.zero_le _⟩

/-- Every step keeps the form of the memories; the bound of `TXT_LEN`, from `Inv`, is what bounds a parsed image. -/
theorem memInv_step {s t : State} (h : MemInv s ∧ s.txtLen.toNat ≤ s.txtMax) (hs : step s = .next t) :
    MemInv t ∧ t.txtLen.toNat ≤ t.txtMax := by
  apply step_preserves (P := fun s => MemInv s ∧ s.txtLen.toNat ≤ s.txtMax) hs h
  case pop => exact fun _ _ ⟨h, hl⟩ => ⟨{ h with }, hl⟩
  case read => exact fun _ _ ⟨h, hl⟩ => ⟨{ h with }, hl⟩
  case setarg => exact fun _ _ ⟨h, hl⟩ => ⟨{ h with }, hl⟩
  case illegal => exact fun _ ⟨h, hl⟩ => ⟨{ h with }, hl⟩
  case leaf => exact fun _ _ _ _ ⟨h, hl⟩ => ⟨{ h with }, hl⟩
  case poke =>
    rintro s a v ⟨h, hl⟩
    refine ⟨h.writeTxt a v, ?_⟩
    rcases writeTxt_cases a v s with ⟨-, hw⟩ | ⟨-, hw⟩ <;> rw [hw] <;> exact hl
  case setlen =>
    rintro s v ⟨h, hl⟩
    refine ⟨h.writeTxtLen v, ?_⟩
    rcases writeTxtLen_cases v s with ⟨hv, hw⟩ | ⟨-, hw⟩ <;> rw [hw]
    · exact hv
    · exact hl
  case reset =>
    exact fun s _ => ⟨{ memInv_of_reset with
      txt_below := Memory.below_nil _, img_below := Memory.below_nil _, imgLen_le := Nat.zero_le _ }, Nat.zero_le _⟩
  case clear =>
    exact fun s ⟨h, _⟩ => ⟨{ h with sec_wf := Memory.wf_nil _, sec_below := Memory.below_nil _, imgLen_le := Nat.zero_le _ },
      Nat.zero_le _⟩
  case parse_ok =>
    exact fun s I ⟨h, hl⟩ hp => ⟨(h.startImage.storeImage (parse_ok_length_le_imgCap hl hp)).markDone, hl⟩
  case parse_error => exact fun s e ⟨h, hl⟩ _ => ⟨h.startImage.raise e, hl⟩
  case resolve_ok => exact fun s lay ⟨h, hl⟩ hr => ⟨(h.startLayout.storeLayout hr).markDone, hl⟩
  case resolve_error => exact fun s e ⟨h, hl⟩ _ => ⟨h.startLayout.raise e, hl⟩
  case decode_ok =>
    exact fun s I lay ⟨h, hl⟩ hp hr =>
      ⟨(((h.startImage.storeImage (parse_ok_length_le_imgCap hl hp)).storeBlock0 _).storeLayout hr).markDone, hl⟩
  case decode_error =>
    exact fun s I e ⟨h, hl⟩ hp _ => ⟨(h.startImage.storeImage (parse_ok_length_le_imgCap hl hp)).raise e, hl⟩

/-- Settles O59: each write keeps its memory canonical and within its extent, and a parsed image fits `IMG`. -/
theorem stepKeepsMemoryForm : Obligations.StepKeepsMemoryForm :=
  fun _ _ hi hm hs => (memInv_step ⟨hm, hi.txtLen_le⟩ hs).1

/-! The results describe the image. -/

theorem resultInv_of_reset : ResultInv State.reset where
  block0_of_image hc := by cases hc
  block0_zero _ := rfl
  layout_of_image hc := by cases hc
  layout_zero _ := ⟨rfl, rfl, rfl⟩
  result_zero _ := rfl

/-- `ResultInv` of a state without block 0 and without a layout, its other results as in a state that has it. -/
theorem ResultInv.dropResults {s t : State} (h : ResultInv s) (hb : t.status.b0Valid = false) (hb0 : t.b0 = .zero)
    (hl : t.status.layValid = false) (hsec : t.sec = []) (hn : t.secCount = 0) (hg : t.geom = .none)
    (hv : t.status.resValid = s.status.resValid) (hres : t.res = s.res) : ResultInv t where
  block0_of_image hc := by simp [hb] at hc
  block0_zero _ := hb0
  layout_of_image hc := by simp [hl] at hc
  layout_zero _ := ⟨hsec, hn, hg⟩
  result_zero hc := hres ▸ h.result_zero (hv ▸ hc)

/-- The sector count of a layout fits its register (R28, R202). -/
theorem resolve_ok_secCount {I : List Byte} {lay : CardLayout} (h : resolve I = .ok lay) :
    (BitVec.ofNat 6 lay.sectors.length).toNat = lay.sectors.length := by
  rcases resolve_ok_cases h with ⟨-, -, hn⟩ | ⟨-, -, hn⟩ <;> rw [hn] <;> rfl

/-- Every step keeps the result registers true to the image: an operation that replaces the image drops them first. -/
theorem resultInv_step {s t : State} (h : ResultInv s) (hs : step s = .next t) : ResultInv t := by
  apply step_preserves hs h
  case pop => exact fun _ _ h => { h with }
  case read => exact fun _ _ h => { h with }
  case setarg => exact fun _ _ h => { h with }
  case illegal => exact fun _ h => { h with }
  case leaf => exact fun _ _ _ _ h => { h with result_zero := fun hc => by cases hc }
  case poke =>
    intro s a v h
    rcases writeTxt_cases a v s with ⟨-, hw⟩ | ⟨-, hw⟩ <;> rw [hw]
    · exact { h with }
    · exact h
  case setlen =>
    intro s v h
    rcases writeTxtLen_cases v s with ⟨-, hw⟩ | ⟨-, hw⟩ <;> rw [hw]
    · exact { h with }
    · exact h
  case reset => exact fun s _ => resultInv_of_reset.dropResults rfl rfl rfl rfl rfl rfl rfl rfl
  case clear => exact fun s _ => resultInv_of_reset.dropResults rfl rfl rfl rfl rfl rfl rfl rfl
  case parse_ok => exact fun s I h _ => h.dropResults rfl rfl rfl rfl rfl rfl rfl rfl
  case parse_error => exact fun s e h _ => h.dropResults rfl rfl rfl rfl rfl rfl rfl rfl
  case decode_error => exact fun s I e h _ _ => h.dropResults rfl rfl rfl rfl rfl rfl rfl rfl
  case resolve_ok =>
    exact fun s lay h hr =>
      { h with
        layout_of_image := fun _ => ⟨lay, hr, rfl, resolve_ok_secCount hr, rfl⟩
        layout_zero := fun hc => by cases hc }
  case resolve_error =>
    exact fun s e h _ =>
      { h with
        layout_of_image := fun hc => by cases hc
        layout_zero := fun _ => ⟨rfl, rfl, rfl⟩ }
  case decode_ok =>
    intro s I lay h hp hr
    have himg : (((s.startImage.storeImage I).storeBlock0 (block0Of I)).storeLayout lay).markDone.image = I :=
      image_storeImage s.startImage I (by rcases resolve_ok_cases hr with ⟨hI, -⟩ | ⟨hI, -⟩ <;> omega)
    exact
      { block0_of_image := fun _ => by rw [himg]; rfl
        block0_zero := fun hc => by cases hc
        layout_of_image := fun _ => ⟨lay, himg.symm ▸ hr, rfl, resolve_ok_secCount hr, rfl⟩
        layout_zero := fun hc => by cases hc
        result_zero := h.result_zero }

/-- Settles O60: no hypothesis beside `ResultInv` itself is needed, since every new image drops the old results. -/
theorem stepKeepsResultsOfTheImage : Obligations.StepKeepsResultsOfTheImage :=
  fun _ _ => resultInv_step

/-- Settles O57: every flag of the reset state is 0 and every memory is empty. -/
theorem resetKeepsEveryInvariant : Obligations.ResetKeepsEveryInvariant :=
  ⟨inv_of_reset, memInv_of_reset, resultInv_of_reset⟩

end Sys2Proof.Machine

/-! What each command and each other access can change, said once, and the statements about the frame of a step (O20, O55,
O56). -/

namespace Sys2Proof.Machine

/-! The commands. -/

/-- The commands of the legal words (R107). -/
def legalCommands : List Instr := [.clear, .parse, .validate, .lookup, .accdec, .resolve, .decode]

/-- The leaf commands, which write `RES` (R38). -/
def leafCommands : List Instr := [.validate, .lookup, .accdec]

theorem leafCommands_subset : leafCommands ⊆ legalCommands := by decide

/-- The legal words are those that the decoder reads as a legal command (R106 to R108). -/
theorem legalWord_eq (w : Byte) : legalWord w = decide (decodeCmd w ∈ legalCommands) := by
  revert w; decide

/-- What a word written to `CMD` makes of a state, by the instruction that it decodes to. -/
inductive CommandEffect (s : State) : Instr → State → Prop
  | illegal {i : Instr} (hi : i ∉ legalCommands) : CommandEffect s i s.setIllcmd
  | clear : CommandEffect s .clear s.clearAll
  | leaf {i : Instr} (hi : i ∈ leafCommands) (r0 r1 r2 : Byte) : CommandEffect s i (s.leafResult r0 r1 r2)
  | parseStored (I : List Byte) : CommandEffect s .parse (s.startImage.storeImage I).markDone
  | parseRaised (e : FormatError) : CommandEffect s .parse (s.startImage.raise e)
  | resolveStored (lay : CardLayout) : CommandEffect s .resolve (s.startLayout.storeLayout lay).markDone
  | resolveRaised (e : FormatError) : CommandEffect s .resolve (s.startLayout.raise e)
  | decodeStored (I : List Byte) (lay : CardLayout) :
      CommandEffect s .decode (((s.startImage.storeImage I).storeBlock0 (block0Of I)).storeLayout lay).markDone
  | decodeImageRaised (I : List Byte) (e : FormatError) : CommandEffect s .decode ((s.startImage.storeImage I).raise e)
  | decodeParseRaised (e : FormatError) : CommandEffect s .decode (s.startImage.raise e)

/-- Every word written to `CMD` has one of these effects. -/
theorem commandEffect_of_exec {w : Byte} {s t : State} (h : exec (decodeCmd w) s = .next t) :
    CommandEffect s (decodeCmd w) t := by
  have hw := decodeCmd_cases w
  simp only [List.mem_cons, List.not_mem_nil, or_false] at hw
  rcases hw with hi | hi | hi | hi | hi | hi | hi | hi | hi | hi | hi | hi | hi <;> rw [hi] at h ⊢
  · cases h; exact .clear
  · rcases execParse_cases s with ⟨I, -, hx⟩ | ⟨e, -, hx⟩ <;> rw [hx] at h <;> cases h
    · exact .parseStored I
    · exact .parseRaised e
  iterate 3 · cases h; exact .leaf (by decide) _ _ _
  · rcases execResolve_cases s with ⟨lay, -, hx⟩ | ⟨e, -, hx⟩ <;> rw [hx] at h <;> cases h
    · exact .resolveStored lay
    · exact .resolveRaised e
  · rcases execDecode_cases s with ⟨I, lay, -, -, -, hx⟩ | ⟨I, e, -, -, hx⟩ | ⟨e, -, hx⟩ <;> rw [hx] at h <;> cases h
    · exact .decodeStored I lay
    · exact .decodeImageRaised I e
    · exact .decodeParseRaised e
  all_goals cases h; exact .illegal (by simp [legalCommands])

section
variable {s t : State} {i : Instr}

/-- A command clears `ILLCMD` exactly when it is legal (R236). -/
theorem CommandEffect.illcmd (h : CommandEffect s i t) : t.status.illcmd = !decide (i ∈ legalCommands) := by
  cases h with
  | illegal hi => simp [hi]
  | leaf hi => rw [decide_eq_true (leafCommands_subset hi)]; rfl
  | _ => rfl

/-- No command writes `TXT` (R41). -/
theorem CommandEffect.txt (h : CommandEffect s i t) : t.txt = s.txt := by cases h <;> rfl

/-- No command but `CLEAR` writes `TXT_LEN` or `ARG` (R25, R37). -/
theorem CommandEffect.inputs (h : CommandEffect s i t) (hi : i ≠ .clear) : t.txtLen = s.txtLen ∧ t.arg = s.arg := by
  cases h with
  | clear => exact absurd rfl hi
  | _ => exact ⟨rfl, rfl⟩

/-- Only the leaf commands and `CLEAR` write `RES` (R38). -/
theorem CommandEffect.res (h : CommandEffect s i t) (hi : i ≠ .clear) (hl : i ∉ leafCommands) :
    t.res = s.res ∧ t.status.resValid = s.status.resValid := by
  cases h with
  | clear => exact absurd rfl hi
  | leaf hm => exact absurd hm hl
  | _ => exact ⟨rfl, rfl⟩

/-- Only `PARSE`, `DECODE` and `CLEAR` write the image and block 0 (R42, R46). -/
theorem CommandEffect.image (h : CommandEffect s i t) (hi : i ≠ .clear) (hc : i ∉ [Instr.parse, .decode]) :
    t.img = s.img ∧ t.imgLen = s.imgLen ∧ t.status.imgValid = s.status.imgValid ∧ t.b0 = s.b0 ∧
      t.status.b0Valid = s.status.b0Valid := by
  cases h with
  | clear => exact absurd rfl hi
  | illegal | leaf | resolveStored | resolveRaised => exact ⟨rfl, rfl, rfl, rfl, rfl⟩
  | _ => exact absurd (by simp) hc

/-- Only `PARSE`, `RESOLVE`, `DECODE` and `CLEAR` write the layout (R43, R46). -/
theorem CommandEffect.layout (h : CommandEffect s i t) (hi : i ≠ .clear) (hc : i ∉ [Instr.parse, .resolve, .decode]) :
    t.sec = s.sec ∧ t.secCount = s.secCount ∧ t.geom = s.geom ∧ t.status.layValid = s.status.layValid := by
  cases h with
  | clear => exact absurd rfl hi
  | illegal | leaf => exact ⟨rfl, rfl, rfl, rfl⟩
  | _ => exact absurd (by simp) hc

end

/-! The other accesses. -/

/-- The access starts no operation: it is neither the reset event nor a write to `CMD` (R21, R280). -/
def StartsNothing (x : HostAccess) : Prop := x ≠ .reset ∧ ∀ v, x ≠ .write .reg 0x00 v

/-- An access is the reset event, a write to `CMD`, or one that starts nothing. -/
theorem access_kinds (x : HostAccess) : x = .reset ∨ (∃ v, x = .write .reg 0x00 v) ∨ StartsNothing x := by
  by_cases hr : x = .reset
  · exact .inl hr
  · by_cases hc : ∃ v, x = .write .reg 0x00 v
    · exact .inr (.inl hc)
    · exact .inr (.inr ⟨hr, fun v hv => hc ⟨v, hv⟩⟩)

/-- A write to `CMD` starts the one command that its word decodes to. -/
theorem startsCommand_write_cmd (v : Word) (i : Instr) :
    StartsCommand (.write .reg 0x00 v) i ↔ decodeCmd (cmdWord v) = i := by
  simp [StartsCommand]

/-- An access that starts nothing changes the text, its length, the operands or the read port, each only by a write to
it or a read, and no other register or memory (R25, R37, R41, R72). -/
theorem access_keeps {x : HostAccess} {s t : State} (hx : StartsNothing x) (h : s.access x = .next t) :
    t = { s with txt := t.txt, txtLen := t.txtLen, arg := t.arg, readData := t.readData } ∧
    ((∀ a v, x ≠ .write .txt a v) → t.txt = s.txt) ∧
    ((∀ v, x ≠ .write .reg 0x06 v) → t.txtLen = s.txtLen) ∧
    ((∀ a v, 0x18 ≤ a → a ≤ 0x1C → x ≠ .write .reg a v) → t.arg = s.arg) := by
  rcases access_cases x s with ⟨hr, -⟩ | ⟨sp, a, -, hn⟩ | ⟨a, v, hw, hn⟩ | ⟨v, hw, hn⟩ | ⟨a, v, arg, hw, h1, h2, hn⟩ |
    ⟨v, hw, -⟩ | ⟨-, hn⟩
  · exact absurd hr hx.1
  · cases hn.symm.trans h
    exact ⟨rfl, fun _ => rfl, fun _ => rfl, fun _ => rfl⟩
  · cases hn.symm.trans h
    rcases writeTxt_cases a (v.setWidth 8) s with ⟨-, ht⟩ | ⟨-, ht⟩ <;> rw [ht]
    · exact ⟨rfl, fun hne => absurd hw (hne a v), fun _ => rfl, fun _ => rfl⟩
    · exact ⟨rfl, fun _ => rfl, fun _ => rfl, fun _ => rfl⟩
  · cases hn.symm.trans h
    rcases writeTxtLen_cases v s with ⟨-, ht⟩ | ⟨-, ht⟩ <;> rw [ht]
    · exact ⟨rfl, fun _ => rfl, fun hne => absurd hw (hne v), fun _ => rfl⟩
    · exact ⟨rfl, fun _ => rfl, fun _ => rfl, fun _ => rfl⟩
  · cases hn.symm.trans h
    exact ⟨rfl, fun _ => rfl, fun _ => rfl, fun hne => absurd hw (hne a v h1 h2)⟩
  · exact absurd hw (hx.2 v)
  · cases hn.symm.trans h
    exact ⟨rfl, fun _ => rfl, fun _ => rfl, fun _ => rfl⟩

/-! The frame of a step. -/

section
variable {s t : State} {x : HostAccess} {rest : List HostAccess} (hp : s.pending = x :: rest) (hs : step s = .next t)
include hp hs

/-- A step on a write to `CMD` has the effect of the command. -/
theorem step_commandEffect {v : Word} (hx : x = .write .reg 0x00 v) :
    CommandEffect { s with pending := rest } (decodeCmd (cmdWord v)) t := by
  subst hx
  exact commandEffect_of_exec ((step_cons hp).symm.trans hs)

theorem step_access : State.access x { s with pending := rest } = .next t := (step_cons hp).symm.trans hs

/-- A step on the reset event leaves the reset state in the block. -/
theorem step_reset (hx : x = .reset) : t = State.hostReset { s with pending := rest } := by
  subst hx
  have h := step_access hp hs
  cases h
  rfl

end

/-- Settles O20: by the kind of access; a legal word is one that decodes to a legal command. -/
theorem illcmdTellsTheLastCommandWrite : Obligations.IllcmdTellsTheLastCommandWrite := by
  intro s t x rest hp hs
  refine ⟨fun v hx => ?_, fun hx => ?_, fun hc hr => ?_⟩
  · rw [(step_commandEffect hp hs hx).illcmd, legalWord_eq]
    rfl
  · rw [step_reset hp hs hx]
    rfl
  · rw [(access_keeps ⟨hr, hc⟩ (step_access hp hs)).1]

/-- Settles O55: by the kind of access. -/
theorem inputsChangeOnlyByTheirWrites : Obligations.InputsChangeOnlyByTheirWrites := by
  intro s t x rest hp hs hr
  rcases access_kinds x with hx | ⟨v, hx⟩ | hx
  · exact absurd hx hr
  · have h := step_commandEffect hp hs hx
    simp only [hx, startsCommand_write_cmd]
    exact ⟨fun _ => h.txt, fun _ hi => (h.inputs hi).1, fun _ hi => (h.inputs hi).2⟩
  · obtain ⟨-, htxt, hlen, harg⟩ := access_keeps hx (step_access hp hs)
    exact ⟨htxt, fun hne _ => hlen hne, fun hne _ => harg hne⟩

/-- Settles O56: by the kind of access; a command that is not named leaves the registers of the clause alone. -/
theorem resultsChangeOnlyByTheirCommands : Obligations.ResultsChangeOnlyByTheirCommands := by
  intro s t x rest hp hs hr hclear
  rcases access_kinds x with hx | ⟨v, hx⟩ | hx
  · exact absurd hx hr
  · have h := step_commandEffect hp hs hx
    simp only [hx, startsCommand_write_cmd] at hclear ⊢
    have hmem (L : List Instr) (hL : ∀ i ∈ L, ¬ decodeCmd (cmdWord v) = i) : decodeCmd (cmdWord v) ∉ L :=
      fun hm => hL _ hm rfl
    exact ⟨fun hL => h.res hclear (hmem _ hL), fun hL => h.image hclear (hmem _ hL),
      fun hL => h.layout hclear (hmem _ hL)⟩
  · rw [(access_keeps hx (step_access hp hs)).1]
    exact ⟨fun _ => ⟨rfl, rfl⟩, fun _ => ⟨rfl, rfl, rfl, rfl, rfl⟩, fun _ => ⟨rfl, rfl, rfl, rfl⟩⟩

end Sys2Proof.Machine

/-! The reads and writes of the register map (O5, O6, O9, O10, O13 to O15, O17), and that `DECODE` depends on the text
alone (O54). -/

namespace Sys2Proof.Machine

/-! `DECODE` as a function of the text. -/

theorem exec_decode_ok {s : State} {I : List Byte} {card : DecodedCard} (hp : parse s.text = .ok I)
    (hd : decodeImage I = .ok card) : exec .decode s =
      .next (((s.startImage.storeImage I).storeBlock0 card.block0).storeLayout card.layout).markDone := by
  simp only [exec, execDecode, decodeText, hp, hd, State.storeImageIf]

theorem exec_decode_image_error {s : State} {I : List Byte} {e : FormatError} (hp : parse s.text = .ok I)
    (hd : decodeImage I = .error e) : exec .decode s = .next ((s.startImage.storeImage I).raise e) := by
  simp only [exec, execDecode, decodeText, hp, hd, State.storeImageIf]

theorem exec_decode_parse_error {s : State} {e : FormatError} (hp : parse s.text = .error e) :
    exec .decode s = .next (s.startImage.raise e) := by
  simp only [exec, execDecode, decodeText, hp, State.storeImageIf]

/-- Without an image every host read of `IMG` gives 0 (R73). -/
theorem readImg_of_imgLen_zero {s : State} (h : s.imgLen = 0) (a : Nat) : s.readImg a = 0 := by
  simp [State.readImg, h]

/-- After an image has been stored the host reads its bytes below `IMG_LEN`, whatever cells were there before (R73). -/
theorem readImg_storeImage (s : State) (I : List Byte) (a : Nat) :
    (s.storeImage I).readImg a = if a < (BitVec.ofNat 32 I.length).toNat then I.getD a 0 else 0 := by
  unfold State.readImg
  rw [storeImage_imgLen]
  by_cases ha : a < (BitVec.ofNat 32 I.length).toNat
  · have haI : a < I.length := lt_of_lt_of_le ha (by rw [BitVec.toNat_ofNat]; exact Nat.mod_le _ _)
    rw [if_pos ha, if_pos ha, imgByte_storeImage, if_pos haI]
  · rw [if_neg ha, if_neg ha]

/-- A byte is what the host reads of it (R20). -/
theorem eq_of_setWidth_eq {x y : Byte} (h : x.setWidth 32 = y.setWidth 32) : x = y := by
  simpa using congrArg (BitVec.setWidth 8) h

/-- Two texts of one length below `TXT_MAX` that the host reads alike are one text (R73). -/
theorem text_eq_of_hostRead {s s' : State} (hlen : s.txtLen = s'.txtLen) (hmax : s.txtLen.toNat ≤ s.txtMax)
    (hmax' : s'.txtLen.toNat ≤ s'.txtMax)
    (hread : ∀ a, a < s.txtLen.toNat → s.hostRead .txt a = s'.hostRead .txt a) : s.text = s'.text := by
  unfold State.text
  rw [← hlen] at hmax' ⊢
  refine List.map_congr_left fun a ha => ?_
  have ha := List.mem_range.1 ha
  have h : s.readTxt a = s'.readTxt a := eq_of_setWidth_eq (hread a ha)
  rwa [State.readTxt, State.readTxt, if_pos (by omega), if_pos (by omega)] at h

/-- Settles O54: `DECODE` starts by dropping every old result, and each of its three ends is a function of the text. -/
theorem decodeDependsOnTheTextAlone : Obligations.DecodeDependsOnTheTextAlone := by
  intro s s' h
  have htext : s.text = s'.text := by
    rcases h with h | ⟨hlen, hmax, hmax', hread⟩
    · exact h
    · exact text_eq_of_hostRead hlen hmax hmax' hread
  cases hp : parse s.text with
  | error e =>
    exact ⟨_, _, exec_decode_parse_error hp, exec_decode_parse_error (htext ▸ hp), rfl, rfl, rfl, rfl, rfl, rfl,
      fun a => by rw [readImg_of_imgLen_zero rfl, readImg_of_imgLen_zero rfl], fun a => rfl⟩
  | ok I =>
    have himg (a : Nat) : (s.startImage.storeImage I).readImg a = (s'.startImage.storeImage I).readImg a := by
      rw [readImg_storeImage, readImg_storeImage]
    cases hd : decodeImage I with
    | error e =>
      exact ⟨_, _, exec_decode_image_error hp hd, exec_decode_image_error (htext ▸ hp) hd, rfl, rfl, rfl, rfl, rfl, rfl,
        himg, fun a => rfl⟩
    | ok card =>
      exact ⟨_, _, exec_decode_ok hp hd, exec_decode_ok (htext ▸ hp) hd, rfl, rfl, rfl, rfl, rfl, rfl,
        himg, fun a => rfl⟩

/-! The word written to `CMD`. -/

/-- The access that presents a word of 8 bits writes that word to `CMD` (R21, log entry 5). -/
theorem cmdWord_cmdAccess (w : Nat) : cmdWord (.ofNat 32 (w % 2 ^ 8)) = .ofNat 8 w := by
  apply BitVec.eq_of_toNat_eq
  simp only [cmdWord, BitVec.toNat_setWidth, BitVec.toNat_ofNat]
  omega

/-- Settles O5: the first access of the list is the write, and a write to number 0 is `exec` by definition. -/
theorem stepRunsTheCommandWritten : Obligations.StepRunsTheCommandWritten :=
  fun _ _ _ h => step_cons h

/-- Settles O6: the placed access is a write to `CMD` of the word, none of whose 8 bits is lost. -/
theorem fetchWordIsRunNext : Obligations.FetchWordIsRunNext := by
  intro s w hw
  constructor
  · calc step (s.withFetchWord 8 w)
        = exec (decodeCmd (cmdWord (.ofNat 32 (w % 2 ^ 8)))) s := step_cons (s := s.withFetchWord 8 w) rfl
      _ = exec (decodeCmd (.ofNat 8 w)) s := by rw [cmdWord_cmdAccess]
  · show some (decodeCmd (.ofNat 8 (w % 2 ^ 8))) = _
    rw [Nat.mod_eq_of_lt (by omega)]

/-! Reads of the register map. -/

/-- The numbers without a register read 0 (R39). -/
theorem readReg_reserved (s : State) {a : Nat} (h : (0x15 ≤ a ∧ a ≤ 0x17) ∨ 0x1F < a) : s.readReg a = 0 := by
  unfold State.readReg
  split
  case h_29 => rfl
  all_goals omega

/-- Settles O9: the map is the match of `readReg`; the numbers above it are reserved. -/
theorem registerMapReads : Obligations.RegisterMapReads := by
  intro s
  refine ⟨rfl, rfl, rfl, rfl, rfl, rfl, rfl, rfl, rfl, rfl, rfl, rfl, rfl, rfl, rfl, ?bccOk, rfl, rfl, rfl, rfl, rfl, rfl, rfl,
    fun a ha => readReg_reserved s (.inr ha)⟩
  case bccOk => cases h : s.b0.bccOk <;> simp [State.hostRead, State.readReg, h]

/-- `ST` stands in the low two bits of `STATUS` (R22). -/
theorem StatusReg.word_low (r : StatusReg) : r.word.setWidth 2 = r.st.toBits := by
  unfold StatusReg.word
  exact BitVec.setWidth_append_eq_right

/-- The five flags stand above `ST`, each at its bit (R22). -/
theorem StatusReg.word_flags (r : StatusReg) : r.word.getLsbD 2 = r.imgValid ∧ r.word.getLsbD 3 = r.b0Valid ∧
    r.word.getLsbD 4 = r.layValid ∧ r.word.getLsbD 5 = r.resValid ∧ r.word.getLsbD 6 = r.illcmd := by
  simp only [StatusReg.word, BitVec.getLsbD_append, BitVec.getLsbD_ofBool]
  simp

/-- Settles O10: the register is `StatusReg.word`, zero-extended. -/
theorem statusBitsAreTheFlags : Obligations.StatusBitsAreTheFlags := by
  intro s
  have hread : s.hostRead .reg 0x01 = s.status.word.setWidth 32 := rfl
  have hlow : (s.status.word.setWidth 32).extractLsb' 0 2 = s.status.st.toBits := by
    rw [← s.status.word_low, ← BitVec.setWidth_eq_extractLsb' (by decide), BitVec.setWidth_setWidth_of_le _ (by decide)]
  have hlt : (s.status.word.setWidth 32).toNat < 128 := by
    have := s.status.word.isLt
    simp only [BitVec.toNat_setWidth]
    omega
  obtain ⟨h2, h3, h4, h5, h6⟩ := s.status.word_flags
  rw [hread, hlow]
  exact ⟨by cases s.status.st <;> rfl, by simpa using h2, by simpa using h3, by simpa using h4, by simpa using h5,
    by simpa using h6, hlt⟩

/-- Every register of the reset state reads 0 (R50). -/
theorem readReg_reset (a : Nat) : State.reset.readReg a = 0 := by
  unfold State.readReg
  split <;> rfl

/-- An empty sector table reads 0 everywhere (R43, R73). -/
theorem readSec_of_sec_nil {s : State} (h : s.sec = []) (a : Nat) : s.readSec a = 0 := by
  simp [State.readSec, State.secByte, h]

/-- Settles O17: the length gates `IMG`, and `SEC` and `TXT` list no cell. -/
theorem resetStateReadsZero : Obligations.ResetStateReadsZero :=
  ⟨readReg_reset, fun a => congrArg (BitVec.setWidth 32) (readImg_of_imgLen_zero rfl a),
    fun a => congrArg (BitVec.setWidth 32) (readSec_of_sec_nil rfl a), fun _ => rfl⟩

/-! Writes of the register map. -/

/-- Settles O13: by the two cases of `writeTxtLen`. -/
theorem txtLenWriteIsBounded : Obligations.TxtLenWriteIsBounded := by
  intro s v rest h
  have hstep : step s = .next (State.writeTxtLen v { s with pending := rest }) := step_cons h
  rw [hstep]
  rcases writeTxtLen_cases v { s with pending := rest } with ⟨hv, hw⟩ | ⟨hv, hw⟩ <;> rw [hw]
  · exact ⟨fun _ => rfl, fun hlt => absurd hv (Nat.not_le.2 hlt)⟩
  · exact ⟨fun hle => absurd hle (Nat.not_le.2 hv), fun _ => rfl⟩

/-- Settles O14: five arms of `writeReg`. -/
theorem argWritesStoreTheLowByte : Obligations.ArgWritesStoreTheLowByte :=
  fun _ _ _ => ⟨step_cons, step_cons, step_cons, step_cons, step_cons⟩

/-- Settles O15: `CMD`, `TXT_LEN` and `ARG` are the only writable registers. -/
theorem ignoredWrites : Obligations.IgnoredWrites := by
  refine ⟨fun s a => readReg_reserved s, fun s sp a v rest hp hsp => ?_⟩
  rw [step_cons hp]
  rcases hsp with rfl | rfl | ⟨rfl, ha⟩
  · rfl
  · rfl
  · rcases writeReg_cases a v { s with pending := rest } with ⟨h0, -⟩ | ⟨h6, -⟩ | ⟨harg, -⟩ | ⟨-, -, -, hw⟩
    · omega
    · omega
    · omega
    · exact hw

end Sys2Proof.Machine

/-! The accesses to the memories (O7, O8, O11, O12, O16), and that the bound on a parsed image is reached (O40). -/

namespace Sys2Proof.Machine

/-! The bound on a parsed image. -/

/-- The model's cut is the library's (R91, R95). -/
theorem splitOn_eq_list_splitOn (sep : Byte) (T : List Byte) : splitOn sep T = T.splitOn sep := by
  induction T with
  | nil => rfl
  | cons x xs ih =>
    obtain ⟨piece, more, h, h'⟩ := splitOn_cons sep x xs
    rw [h', List.splitOn_cons_eq_if_modifyHead, ← ih, h]
    by_cases hx : x = sep <;> simp [hx]

/-- A text without LF is one line. -/
theorem parse_of_one_line {T vs : List Byte} (hlf : chLf ∉ T) (h : scanLine 1 0 T = .ok vs) (hvs : vs ≠ []) :
    parse T = .ok vs := by
  obtain ⟨v, vs, rfl⟩ := List.exists_cons_of_ne_nil hvs
  rw [parse, splitOn_eq_list_splitOn, List.splitOn_eq_singleton hlf]
  simp [scanLines, h]

/-- No hex digit is whitespace (R94, R97). -/
theorem isWs_of_digit {x : Byte} {n : Nat} (h : digit? x = some n) : isWs x = false := by
  have hall : ∀ y : Byte, (digit? y).isSome = true → isWs y = false := by decide
  exact hall x (by simp [h])

/-- No byte of a valid token is whitespace (R94, R96). -/
theorem isWs_of_token {tok : List Byte} {v : Byte} (h : tokenValue? tok = some v) : ∀ x ∈ tok, isWs x = false := by
  match tok, h with
  | [a], h =>
    obtain ⟨n, ha, -⟩ := Option.map_eq_some_iff.1 h
    simp [isWs_of_digit ha]
  | [a, b], h =>
    simp only [tokenValue?] at h
    split at h
    · next ha hb => simp [isWs_of_digit ha, isWs_of_digit hb]
    · cases h
  | [], h => simp [tokenValue?] at h
  | _ :: _ :: _ :: _, h => simp [tokenValue?] at h

/-- Valid tokens give their values (R138). -/
theorem scanTokens_of_values {line t : Nat} {toks : List (List Byte)} {vs : List Byte}
    (h : toks.map tokenValue? = vs.map some) : scanTokens line t toks = .ok vs := by
  induction toks generalizing t vs with
  | nil => simp_all [scanTokens]
  | cons tok more ih =>
    obtain ⟨v, ws, rfl⟩ : ∃ v ws, vs = v :: ws := List.exists_cons_of_ne_nil (by rintro rfl; simp at h)
    simp only [List.map_cons, List.cons.injEq] at h
    simp [scanTokens, h.1, ih h.2]

theorem dropWhile_isWs_of_head? {bytes : List Byte} {x : Byte} (h : bytes.head? = some x) (hx : isWs x = false) :
    bytes.dropWhile isWs = bytes := by
  obtain ⟨tl, rfl⟩ := List.head?_eq_some_iff.1 h
  simp [hx]

theorem trimRight_of_getLast? {bytes : List Byte} {x : Byte} (h : bytes.getLast? = some x) (hx : isWs x = false) :
    trimRight bytes = bytes := by
  rw [trimRight, dropWhile_isWs_of_head? (by rwa [List.head?_reverse]) hx, List.reverse_reverse]

/-- Tokens joined by single spaces begin and end with a byte of a token, so that nothing is trimmed (R94). -/
theorem trim_joined_tokens {toks : List (List Byte)} (hne : toks ≠ [])
    (h : ∀ tok ∈ toks, tok ≠ [] ∧ ∀ x ∈ tok, isWs x = false) :
    ([chSpace].intercalate toks).dropWhile isWs = [chSpace].intercalate toks ∧
    trimRight ([chSpace].intercalate toks) = [chSpace].intercalate toks := by
  have hends : (∃ x, ([chSpace].intercalate toks).head? = some x ∧ isWs x = false) ∧
      ∃ x, ([chSpace].intercalate toks).getLast? = some x ∧ isWs x = false := by
    induction toks with
    | nil => exact absurd rfl hne
    | cons tok more ih =>
      obtain ⟨htok, hws⟩ := h tok (by simp)
      have hhead := List.head?_eq_some_head htok
      cases more with
      | nil =>
        rw [List.intercalate_singleton]
        exact ⟨⟨_, hhead, hws _ (List.head_mem htok)⟩, _, List.getLast?_eq_some_getLast htok,
          hws _ (List.getLast_mem htok)⟩
      | cons tok' more =>
        obtain ⟨-, x, hx, hxws⟩ := ih (by simp) fun t ht => h t (by simp [ht])
        rw [List.intercalate_cons_cons]
        exact ⟨⟨_, by simp [hhead], hws _ (List.head_mem htok)⟩, x, by rw [List.getLast?_append, hx]; rfl, hxws⟩
  obtain ⟨⟨x, hx, hxws⟩, y, hy, hyws⟩ := hends
  exact ⟨dropWhile_isWs_of_head? hx hxws, trimRight_of_getLast? hy hyws⟩

/-- The first colon of a line stands after a part without colons. -/
theorem findColon_append {pre rest : List Byte} (h : chColon ∉ pre) :
    (pre ++ chColon :: rest).findIdx? (· == chColon) = some pre.length := by
  have hpre : pre.findIdx? (· == chColon) = none :=
    List.findIdx?_eq_none_iff.2 fun x hx => beq_eq_false_iff_ne.2 fun hc => h (hc ▸ hx)
  rw [List.findIdx?_append, hpre, List.findIdx?_cons]
  simp

/-- A cut at the spaces takes joined tokens apart again (R95). -/
theorem splitOn_joined_tokens {toks : List (List Byte)} (hne : toks ≠ []) (h : ∀ tok ∈ toks, chSpace ∉ tok) :
    splitOn chSpace ([chSpace].intercalate toks) = toks := by
  rw [splitOn_eq_list_splitOn, List.splitOn_intercalate _ h hne]

theorem mem_joined_tokens {toks : List (List Byte)} {x : Byte} (h : x ∈ [chSpace].intercalate toks) :
    x = chSpace ∨ ∃ tok ∈ toks, x ∈ tok := by
  induction toks with
  | nil => simp at h
  | cons tok more ih =>
    cases more with
    | nil => exact .inr ⟨tok, by simp, by simpa using h⟩
    | cons tok' more =>
      simp only [List.intercalate_cons_cons, List.mem_append, List.mem_singleton] at h
      rcases h with (h | h) | h
      · exact .inr ⟨tok, by simp, h⟩
      · exact .inl h
      · exact (ih h).imp_right fun ⟨t, ht, hx⟩ => ⟨t, List.mem_cons_of_mem _ ht, hx⟩

/-- A Block line of valid tokens with single spaces between gives their values (R93 to R96, R138). -/
theorem scanLine_of_tokens {line p : Nat} {label : List Byte} {toks : List (List Byte)} {vs : List Byte}
    (hlabel : chColon ∉ label) (hne : toks ≠ []) (h : toks.map tokenValue? = vs.map some) :
    scanLine line p (blockWord ++ label ++ chColon :: [chSpace].intercalate toks) = .ok vs := by
  have htoks : ∀ tok ∈ toks, tok ≠ [] ∧ ∀ x ∈ tok, isWs x = false := by
    intro tok ht
    obtain ⟨v, -, hv⟩ := List.mem_map.1 (h ▸ List.mem_map_of_mem ht)
    exact ⟨List.ne_nil_of_length_pos (tokenValue?_length hv.symm).1, isWs_of_token hv.symm⟩
  obtain ⟨hleft, hright⟩ := trim_joined_tokens hne htoks
  have hcut : splitOn chSpace ([chSpace].intercalate toks) = toks :=
    splitOn_joined_tokens hne fun tok ht hs => absurd ((htoks tok ht).2 _ hs) (by decide)
  have hblock : isBlockLine (blockWord ++ label ++ chColon :: [chSpace].intercalate toks) = true := rfl
  have hcolon : chColon ∉ blockWord ++ label := fun hc =>
    (List.mem_append.1 hc).elim (by decide) hlabel
  have hdrop : (blockWord ++ label ++ chColon :: [chSpace].intercalate toks).drop ((blockWord ++ label).length + 1) =
      [chSpace].intercalate toks := by
    rw [← List.drop_drop, List.drop_left, List.drop_one, List.tail_cons]
  simp only [scanLine, hblock, if_true, findColon_append hcolon, hdrop, hleft, hright, hcut]
  exact scanTokens_of_values h

/-- `n + 1` tokens "5" with single spaces between. -/
def shortestPayload (n : Nat) : List Byte := [chSpace].intercalate (List.replicate (n + 1) [0x35])

/-- "Block:" and `n + 1` tokens "5": a shortest text of an image of `n + 1` bytes (R81). -/
def shortestText (n : Nat) : List Byte := blockWord ++ chColon :: shortestPayload n

theorem shortestText_length (n : Nat) : (shortestText n).length = 2 * (n + 1) + 5 := by
  have hcut : splitOn chSpace (shortestPayload n) = List.replicate (n + 1) [0x35] :=
    splitOn_joined_tokens (by simp) fun tok ht => by rw [List.eq_of_mem_replicate ht]; decide
  have hlen := splitOn_length chSpace (shortestPayload n)
  rw [hcut, List.map_replicate, List.sum_replicate, List.length_replicate, smul_eq_mul, List.length_singleton] at hlen
  rw [shortestText, List.length_append, List.length_cons, show blockWord.length = 5 from rfl]
  omega

theorem shortestText_no_lf (n : Nat) : chLf ∉ shortestText n := by
  intro h
  simp only [shortestText, List.mem_append, List.mem_cons] at h
  rcases h with h | h | h
  · exact absurd h (by decide)
  · exact absurd h (by decide)
  · rcases mem_joined_tokens h with h | ⟨tok, ht, h⟩
    · exact absurd h (by decide)
    · rw [List.eq_of_mem_replicate ht] at h
      exact absurd h (by decide)

theorem parse_shortestText (n : Nat) : parse (shortestText n) = .ok (List.replicate (n + 1) 5) := by
  have hvalue : tokenValue? [0x35] = some 5 := by decide
  refine parse_of_one_line (shortestText_no_lf n) (scanLine_of_tokens (label := []) (by simp) (by simp) ?_) (by simp)
  rw [List.map_replicate, List.map_replicate, hvalue]

/-- Settles O40: the bound is the one of `parse_ok_length`, and a line of one-digit tokens reaches it. -/
theorem parsedImageIsBounded : Obligations.ParsedImageIsBounded := by
  refine ⟨fun _ _ => parse_ok_length, fun k hk => ?_, fun s I hlen h => ?_⟩
  · obtain ⟨n, rfl⟩ := Nat.exists_eq_add_of_le' hk
    exact ⟨_, _, shortestText_length n, parse_shortestText n, List.length_replicate⟩
  · have hbound := parse_ok_length h
    rw [text_length] at hbound
    have := s.txtLen.isLt
    omega

/-! Every access answers a next state. -/

/-- No meaning faults or refuses (R80, R288): only `PARSE`, `RESOLVE` and `DECODE` have
more than one end. -/
theorem exec_answers_next (i : Instr) (s : State) : ∃ t, exec i s = .next t := by
  cases i with
  | parse => rcases execParse_cases s with ⟨_, _, h⟩ | ⟨_, _, h⟩ <;> exact ⟨_, h⟩
  | resolve => rcases execResolve_cases s with ⟨_, _, h⟩ | ⟨_, _, h⟩ <;> exact ⟨_, h⟩
  | decode => rcases execDecode_cases s with ⟨_, _, _, _, _, h⟩ | ⟨_, _, _, _, h⟩ | ⟨_, _, h⟩ <;> exact ⟨_, h⟩
  | _ => exact ⟨_, rfl⟩

/-- No access faults (R80). -/
theorem access_answers_next (x : HostAccess) (s : State) : ∃ t, s.access x = .next t := by
  rcases access_cases x s with ⟨-, h⟩ | ⟨_, _, -, h⟩ | ⟨_, _, -, h⟩ | ⟨_, -, h⟩ | ⟨_, _, _, -, -, -, h⟩ | ⟨v, -, h⟩ | ⟨-, h⟩
  case inr.inr.inr.inr.inr.inl => exact h ▸ exec_answers_next _ s
  all_goals exact ⟨_, h⟩

/-- Settles O7: a step is an access or a wait. -/
theorem everyStepAnswersNext : Obligations.EveryStepAnswersNext := by
  refine ⟨fun s => ?_, exec_answers_next, fun s => step_nil⟩
  cases hp : s.pending with
  | nil => exact ⟨s, step_nil hp⟩
  | cons x rest => exact step_cons hp ▸ access_answers_next x _

/-! Reads of the three memories. -/

/-- A cell of `TXT` reads its listed byte, or its free value (R73, U2). -/
theorem txtByte_eq (s : State) (a : Nat) :
    s.txtByte a = (Memory.get? s.txt a).getD (Config.txtUnspecified s.txtEpoch a) := by
  simp [State.txtByte, Memory.read]

theorem readTxt_of_lt {s : State} {a : Nat} (h : a < s.txtMax) : s.readTxt a = s.txtByte a := if_pos h
theorem readTxt_of_le {s : State} {a : Nat} (h : s.txtMax ≤ a) : s.readTxt a = 0 := if_neg (Nat.not_lt.2 h)
theorem readImg_of_le {s : State} {a : Nat} (h : s.imgLen.toNat ≤ a) : s.readImg a = 0 := if_neg (Nat.not_lt.2 h)
theorem readSec_of_gt {s : State} {a : Nat} (h : 1279 < a) : s.readSec a = 0 :=
  if_neg (Nat.not_lt.2 (show secBytes ≤ a from h))

/-- A host read of `TXT` depends on the cells, the capacity and the free content of unwritten cells only. -/
theorem readTxt_congr {s t : State} (htxt : t.txt = s.txt) (hmax : t.txtMax = s.txtMax)
    (hepoch : t.txtEpoch = s.txtEpoch) (a : Nat) : t.readTxt a = s.readTxt a := by
  simp only [State.readTxt, State.txtByte, htxt, hmax, hepoch]

/-- A host read of `TXT` after a host write to it (R73, R74). -/
theorem readTxt_writeTxt (s : State) (a : Nat) (v : Byte) (b : Nat) :
    (s.writeTxt a v).readTxt b = if b = a ∧ a < s.txtMax then v else s.readTxt b := by
  rcases writeTxt_cases a v s with ⟨ha, hw⟩ | ⟨ha, hw⟩ <;> rw [hw]
  · by_cases hb : b = a
    · subst hb
      simp [State.readTxt, State.txtByte, Memory.read_write, ha]
    · simp [State.readTxt, State.txtByte, Memory.read_write, hb]
  · rw [if_neg (by omega)]

/-- No command changes the capacity of `TXT` or the free content of its cells (R6, R283). -/
theorem CommandEffect.txtFixed {s t : State} {i : Instr} (h : CommandEffect s i t) :
    t.txtMax = s.txtMax ∧ t.txtEpoch = s.txtEpoch := by cases h <;> exact ⟨rfl, rfl⟩

/-- A cell of `TXT` reads as before after every access but the reset event and a write to that cell (R41, R73). -/
theorem readTxt_access {x : HostAccess} {s t : State} {a : Nat} (h : s.access x = .next t) (hr : x ≠ .reset)
    (hw : ∀ v, x ≠ .write .txt a v) : t.readTxt a = s.readTxt a := by
  rcases access_kinds x with hx | ⟨v, rfl⟩ | hx
  · exact absurd hx hr
  · have heff : CommandEffect s (decodeCmd (cmdWord v)) t := commandEffect_of_exec h
    exact readTxt_congr heff.txt heff.txtFixed.1 heff.txtFixed.2 a
  · by_cases hpoke : ∃ b v, x = .write .txt b v
    · obtain ⟨b, v, rfl⟩ := hpoke
      have hba : a ≠ b := fun hab => hw v (hab ▸ rfl)
      cases (show Host.Outcome.next (s.writeTxt b (v.setWidth 8)) = .next t from h)
      rw [readTxt_writeTxt, if_neg fun hab => hba hab.1]
    · obtain ⟨hframe, htxt, -⟩ := access_keeps hx h
      refine readTxt_congr (htxt fun b v hb => hpoke ⟨b, v, hb⟩) ?_ ?_ a <;> rw [hframe]

/-- Settles O11: each clause is the read of its memory; the last is `readTxt_access`. -/
theorem gatedMemoryReads : Obligations.GatedMemoryReads := by
  intro s a
  refine ⟨?img, fun h => congrArg (BitVec.setWidth 32) (readSec_of_gt h),
    fun h => congrArg (BitVec.setWidth 32) (readTxt_of_le h), fun h v hv => ?listed, fun h hv => ?unlisted,
    fun h v => ?written, fun t x rest hp hs hr hw => ?kept⟩
  case img => exact apply_ite (BitVec.setWidth 32) _ _ _
  case listed => exact congrArg (BitVec.setWidth 32) (by rw [readTxt_of_lt h, txtByte_eq, hv]; rfl)
  case unlisted => exact congrArg (BitVec.setWidth 32) (by rw [readTxt_of_lt h, txtByte_eq, hv]; rfl)
  case written => exact congrArg (BitVec.setWidth 32) (by rw [readTxt_writeTxt, if_pos ⟨rfl, h⟩])
  case kept =>
    have hkept : t.readTxt a = State.readTxt { s with pending := rest } a := readTxt_access (step_access hp hs) hr hw
    exact congrArg (BitVec.setWidth 32) hkept

/-- Settles O12: the step is `writeTxt`, after which `TXT` reads as `readTxt_writeTxt` says. -/
theorem hostPokeWritesOneTextByte : Obligations.HostPokeWritesOneTextByte := by
  intro s a v rest hp
  refine ⟨State.writeTxt a (v.setWidth 8) { s with pending := rest }, step_cons hp, ?frame, fun ha => ?same,
    fun b hb => ?other, fun ha => ?ignored⟩
  case frame =>
    rcases writeTxt_cases a (v.setWidth 8) { s with pending := rest } with ⟨-, hw⟩ | ⟨-, hw⟩ <;> rw [hw]
  case same => rw [readTxt_writeTxt, if_pos ⟨rfl, ha⟩]
  case other => rw [readTxt_writeTxt, if_neg fun h => hb h.1]; rfl
  case ignored =>
    rcases writeTxt_cases a (v.setWidth 8) { s with pending := rest } with ⟨hlt, -⟩ | ⟨-, hw⟩
    · exact absurd hlt (Nat.not_lt.2 ha)
    · rw [hw]

/-! Accesses outside the defined ranges. -/

/-- Settles O16: the four reads by their gates, `IMG_LEN` being at most `IMG_CAP`; the write to `TXT` is ignored above its
capacity, and the three others are ignored writes of O15. -/
theorem outOfRangeAccessesNeverFault : Obligations.OutOfRangeAccessesNeverFault := by
  intro s sp a hm hout
  rcases hout with ⟨rfl, ha⟩ | ⟨rfl, ha⟩ | ⟨rfl, ha⟩ | ⟨rfl, ha⟩
  · exact ⟨readReg_reserved s (.inr ha), fun v rest hp =>
      ignoredWrites.2 s .reg a v rest hp (.inr (.inr ⟨rfl, .inr (.inl ha)⟩))⟩
  · refine ⟨congrArg (BitVec.setWidth 32) (readTxt_of_le ha), fun v rest hp => ?_⟩
    rw [step_cons hp]
    exact congrArg Host.Outcome.next (if_neg (Nat.not_lt.2 ha))
  · exact ⟨congrArg (BitVec.setWidth 32) (readImg_of_le (le_trans hm.imgLen_le ha)), fun v rest hp =>
      ignoredWrites.2 s .img a v rest hp (.inl rfl)⟩
  · exact ⟨congrArg (BitVec.setWidth 32) (readSec_of_gt ha), fun v rest hp =>
      ignoredWrites.2 s .sec a v rest hp (.inr (.inl rfl))⟩

/-- A host read does not look at the model's own port fields (R47, R72). -/
theorem hostRead_port (s : State) (rest : List HostAccess) (r : Word) (sp : Space) (a : Nat) :
    ({ s with pending := rest, readData := r } : State).hostRead sp a = s.hostRead sp a := by
  cases sp <;> rfl

/-- Settles O8: the step writes the two port fields, which no read looks at. -/
theorem hostReadsChangeNothing : Obligations.HostReadsChangeNothing := by
  intro s sp a rest hp
  have hstep : step s = .next { s with pending := rest, readData := s.hostRead sp a } := by
    rw [step_cons hp, ← hostRead_port s rest s.readData sp a]
    rfl
  refine ⟨hstep, fun t ht => ?_⟩
  cases hstep.symm.trans ht
  exact hostRead_port s rest _ sp a

end Sys2Proof.Machine

/-! The encoding (O1 to O4): each decoder and `encode` undo each other at their place, and which command words are
illegal. -/

namespace Sys2Proof.Machine

/-! Words that fit a 3-bit field. -/

theorem byte_of_lt_eight {w : Byte} (h : w.toNat < 8) : w ∈ ([0, 1, 2, 3, 4, 5, 6, 7] : List Byte) := by
  revert w; decide

/-- A command word without reserved bits is its operation code (R106). -/
theorem lt_eight_of_reserved_clear {w : Byte} (h3 : ¬ w.getLsbD 3 = true) (h4 : ¬ w.getLsbD 4 = true)
    (h5 : ¬ w.getLsbD 5 = true) (h6 : ¬ w.getLsbD 6 = true) (h7 : ¬ w.getLsbD 7 = true) : w.toNat < 8 := by
  revert w; decide

/-! The rows of the decoders that are not a single word. -/

/-- A word goes to the row of a reserved bit exactly when that bit is its lowest one (log entry 2). -/
theorem decodeCmd_illegalBit (w : Byte) :
    ∀ i ∈ [Instr.illegalBit3 w, .illegalBit4 w, .illegalBit5 w, .illegalBit6 w, .illegalBit7 w],
      i.wellFormed = true → decodeCmd w = i := by
  simp only [List.forall_mem_cons, Instr.wellFormed, Bool.and_eq_true, Bool.not_eq_true']
  refine ⟨fun h => ?_, fun h => ?_, fun h => ?_, fun h => ?_, fun h => ?_, by simp⟩
  all_goals simp only [decodeCmd, h, if_true, Bool.false_eq_true, if_false]

/-- A code without a row of its own is the default row's (R171). -/
theorem decodeMfr_of_not_mem {c : Byte} (h : c ∉ mfrCodes) : decodeMfr c = .mfrDefault c := by
  revert c; decide

/-- `InvalidHexToken` is read beside any record with a line (R24). -/
theorem decodeErr_two (line off len : Word) :
    decodeErr line off len 2 = if line = 0 then .error .lineZero else .ok (.errInvalidHexToken line off len) := rfl

/-- Every other error code is refused beside a nonzero record (R24). -/
theorem decodeErr_record {line off len : Word} {c : BitVec 3} (hc : c ≠ 2) (h : ¬ (line = 0 ∧ off = 0 ∧ len = 0)) :
    ∃ e, decodeErr line off len c = .error e := by
  have hrec : line ≠ 0 ∨ off ≠ 0 ∨ len ≠ 0 := by tauto
  rw [decodeErr, if_neg hc, if_pos hrec]
  split <;> exact ⟨_, rfl⟩

/-- Settles O2: all but seven kinds of terms are single words of a table; the others are the rows above. -/
theorem decodeInvertsEncode : Obligations.DecodeInvertsEncode := by
  intro i h
  cases i with
  | illegalBit3 w | illegalBit4 w | illegalBit5 w | illegalBit6 w | illegalBit7 w =>
    exact congrArg _ (decodeCmd_illegalBit w _ (by simp) h)
  | mfrDefault c =>
    have hc : c ∉ mfrCodes := by simpa [Instr.wellFormed] using h
    exact congrArg _ (decodeMfr_of_not_mem hc)
  | errInvalidHexToken line off len =>
    have hline : line ≠ 0 := by simpa [Instr.wellFormed] using h
    exact (decodeErr_two line off len).trans (if_neg hline)
  | _ => rfl

/-! What a decoder reads. -/

/-- The instruction stands for an encoding, at the place `p`, and its word is `w`. -/
def StandsFor (p : Place) (w : Byte) (i : Instr) : Prop := i.wellFormed = true ∧ i.place = p ∧ encode i = w

theorem decodeCmd_standsFor (w : Byte) : StandsFor .cmd w (decodeCmd w) := by
  by_cases hw : w.toNat < 8
  · have hcodes := byte_of_lt_eight hw
    fin_cases hcodes <;> exact ⟨rfl, rfl, rfl⟩
  · unfold decodeCmd
    split_ifs with h3 h4 h5 h6 h7
    case neg => exact absurd (lt_eight_of_reserved_clear h3 h4 h5 h6 h7) hw
    all_goals exact ⟨by simp only [Instr.wellFormed, *, Bool.not_false, Bool.and_true], rfl, rfl⟩

theorem decodeTier_standsFor (f : AccField) {w : Byte} (h : w.toNat < 8) :
    StandsFor (.accField f) w (decodeTier f (w.setWidth 3)) := by
  have hcodes := byte_of_lt_eight h
  fin_cases hcodes <;> exact ⟨rfl, rfl, rfl⟩

theorem decodeMfr_standsFor (c : Byte) : StandsFor .mfrCode c (decodeMfr c) := by
  by_cases hc : c ∈ mfrCodes
  · unfold mfrCodes at hc
    fin_cases hc <;> exact ⟨rfl, rfl, rfl⟩
  · rw [decodeMfr_of_not_mem hc]
    exact ⟨by simpa [Instr.wellFormed] using hc, rfl, rfl⟩

theorem decodeErr_standsFor {line off len : Word} {w : Byte} {i : Instr} (hw : w.toNat < 8)
    (h : decodeErr line off len (w.setWidth 3) = .ok i) : StandsFor (.errRecord line off len) w i := by
  by_cases h2 : w = 2
  · subst h2
    rw [show (2 : Byte).setWidth 3 = 2 from rfl, decodeErr_two] at h
    split at h
    · cases h
    · next hline =>
      cases h
      exact ⟨bne_iff_ne.2 hline, rfl, rfl⟩
  · have hcodes := byte_of_lt_eight hw
    by_cases hrec : line = 0 ∧ off = 0 ∧ len = 0
    · obtain ⟨rfl, rfl, rfl⟩ := hrec
      fin_cases hcodes <;> cases h <;> exact ⟨rfl, rfl, rfl⟩
    · have hc : w.setWidth 3 ≠ 2 := by fin_cases hcodes <;> simp_all
      obtain ⟨e, he⟩ := decodeErr_record hc hrec
      cases he.symm.trans h

/-- Settles O3: one lemma per place. -/
theorem encodeInvertsDecode : Obligations.EncodeInvertsDecode := by
  intro p w i h
  cases p with
  | cmd => cases h; exact decodeCmd_standsFor w
  | mfrCode => cases h; exact decodeMfr_standsFor w
  | accField f =>
    simp only [decodeAt] at h
    split at h
    · next hw => cases h; exact decodeTier_standsFor f hw
    · cases h
  | errRecord line off len =>
    simp only [decodeAt] at h
    split at h
    · next hw => exact decodeErr_standsFor hw h
    · cases h

/-! The illegal command words. -/

/-- The rows that the word `w` may be read as when it is illegal (R108). -/
def illegalRows (w : Byte) : List Instr :=
  [.illegalOpc7, .illegalBit3 w, .illegalBit4 w, .illegalBit5 w, .illegalBit6 w, .illegalBit7 w]

/-- A word is read as a legal command or as an illegal row. -/
theorem decodeCmd_mem_illegalRows (w : Byte) : decodeCmd w ∈ illegalRows w ↔ ¬ legalWord w = true := by
  rw [legalWord_eq, decide_eq_true_iff]
  refine ⟨fun h hlegal => ?_, fun h => ?_⟩
  · have hdisjoint : ∀ i ∈ illegalRows w, i ∉ legalCommands := by simp [illegalRows, legalCommands]
    exact hdisjoint _ h hlegal
  · exact (List.mem_append.1 (decodeCmd_cases w : decodeCmd w ∈ legalCommands ++ illegalRows w)).resolve_left h

/-- The six rows have one effect (R236). -/
theorem exec_illegalRows {w : Byte} {i : Instr} (h : i ∈ illegalRows w) (s : State) : exec i s = .next s.setIllcmd := by
  unfold illegalRows at h
  fin_cases h <;> rfl

/-- Settles O4: the rows by `decodeCmd_mem_illegalRows`, their effect by `exec_illegalRows`. -/
theorem illegalWordsAreExactlyThese : Obligations.IllegalWordsAreExactlyThese := by
  intro w
  have hwords : decodeCmd w ∈ illegalRows w ↔ w.toNat / 8 ≠ 0 ∨ w.toNat % 8 = 7 := by
    rw [decodeCmd_mem_illegalRows]
    simp [legalWord, imp_iff_not_or]
  refine ⟨?rows, fun h => exec_illegalRows (hwords.2 h), fun i => exec_illegalRows⟩
  rw [← hwords]
  simp [illegalRows]

/-- Settles O1: the eight operation codes, the five words with one reserved bit, and one data word per format. -/
theorem commandWordsDecode : Obligations.CommandWordsDecode := by
  unfold Obligations.CommandWordsDecode
  decide

end Sys2Proof.Machine

/-! Hex digits, tokens and rendered dumps (O36, O37, O42): what `HEX2` and the dump format write, the parser reads back. -/

namespace Sys2Proof.Machine

/-! Digits and tokens. -/

/-- Settles O36: the three ranges are the branches of `digit?`. -/
theorem hexDigitTable : Obligations.HexDigitTable := by
  intro x
  refine ⟨fun h => ⟨if_pos h, by omega⟩, fun h => ⟨?upper, by omega⟩, fun h => ⟨?lower, by omega⟩, fun h1 h2 h3 => ?none⟩
  case upper => rw [digit?, if_neg (by omega), if_pos h]
  case lower => rw [digit?, if_neg (by omega), if_neg (by omega), if_pos h]
  case none => rw [digit?, if_neg h1, if_neg h2, if_neg h3]

/-- One digit is a token of its value (R96). -/
theorem tokenValue?_one {a : Byte} {x : Nat} (ha : digit? a = some x) : tokenValue? [a] = some (.ofNat 8 x) := by
  simp [tokenValue?, ha]

/-- The left digit is the high nibble (R63). -/
theorem tokenValue?_two {a b : Byte} {x y : Nat} (ha : digit? a = some x) (hb : digit? b = some y) :
    tokenValue? [a, b] = some (.ofNat 8 (16 * x + y)) := by
  simp [tokenValue?, ha, hb]

theorem tokenValue?_isSome (tok : List Byte) : (tokenValue? tok).isSome = true ↔
    (tok.length = 1 ∨ tok.length = 2) ∧ ∀ x ∈ tok, (digit? x).isSome = true := by
  match tok with
  | [] => simp [tokenValue?]
  | [a] => simp [tokenValue?]
  | [a, b] =>
    cases ha : digit? a <;> cases hb : digit? b <;> simp [tokenValue?, ha, hb]
  | _ :: _ :: _ :: _ => simp [tokenValue?]

/-- Settles O37: digits are below 16, so that no value is cut to a byte. -/
theorem tokenValidityAndValue : Obligations.TokenValidityAndValue := by
  refine ⟨tokenValue?_isSome, fun a x ha => ⟨_, tokenValue?_one ha, ?_⟩,
    fun a b x y ha hb => ⟨_, tokenValue?_two ha hb, ?_⟩⟩
  · have := digit?_lt ha
    exact Nat.mod_eq_of_lt (by omega)
  · have := digit?_lt ha
    have := digit?_lt hb
    exact Nat.mod_eq_of_lt (by omega)

/-! Rendered bytes. -/

theorem digit?_hexChar {n : Nat} (h : n < 16) : digit? (hexChar n) = some n := by
  revert n; decide

theorem tokenValue?_hex2 (b : Byte) : tokenValue? (hex2 b) = some b := by
  have hb : b.toNat < 256 := b.isLt
  rw [hex2, tokenValue?_two (digit?_hexChar (by omega)) (digit?_hexChar (by omega)), Nat.div_add_mod, BitVec.ofNat_toNat,
    BitVec.setWidth_eq]

/-- A byte group is its rendered bytes with single spaces between (R114). -/
theorem hexGroup_eq_intercalate (bytes : List Byte) : hexGroup bytes = [chSpace].intercalate (bytes.map hex2) := by
  induction bytes with
  | nil => rfl
  | cons b more ih =>
    cases more with
    | nil => simp [hexGroup]
    | cons b' more => rw [hexGroup, ih]; simp

theorem chLf_not_mem_hexGroup (bytes : List Byte) : chLf ∉ hexGroup bytes := by
  rw [hexGroup_eq_intercalate]
  intro h
  rcases mem_joined_tokens h with h | ⟨tok, htok, h⟩
  · exact absurd h (by decide)
  · obtain ⟨b, -, rfl⟩ := List.mem_map.1 htok
    exact absurd (isWs_of_token (tokenValue?_hex2 b) _ h) (by decide)

/-! Rendered lines. -/

/-- What a Block line gives is the tokens of its payload, from which the whitespace around it is removed (R133 to R136). -/
theorem scanLine_eq_scanTokens {line p : Nat} {pre payload : List Byte}
    (hblock : isBlockLine (pre ++ chColon :: payload) = true) (hcolon : chColon ∉ pre) :
    scanLine line p (pre ++ chColon :: payload) =
      scanTokens line (p + pre.length + 1 + (payload.takeWhile isWs).length)
        (splitOn chSpace (trimRight (payload.dropWhile isWs))) := by
  have hdrop : (pre ++ chColon :: payload).drop (pre.length + 1) = payload := by
    rw [← List.drop_drop, List.drop_left, List.drop_one, List.tail_cons]
  simp only [scanLine, hblock, if_true, findColon_append hcolon, hdrop]

theorem chColon_not_mem_blockWord_append {label : List Byte} (h : chColon ∉ label) : chColon ∉ blockWord ++ label := by
  have hword : chColon ∉ blockWord := by decide
  simp [hword, h]

/-- A rendered line gives its byte group: the one space after the colon is removed, and between the bytes stand single
spaces (R93 to R96, R138). -/
theorem scanLine_dumpLine {line p : Nat} {label bytes : List Byte} (hlabel : chColon ∉ label) (hne : bytes ≠ []) :
    scanLine line p (dumpLine label bytes) = .ok bytes := by
  have htoks : bytes.map hex2 ≠ [] := by simpa using hne
  have hgraphic : ∀ tok ∈ bytes.map hex2, tok ≠ [] ∧ ∀ x ∈ tok, isWs x = false := by
    refine List.forall_mem_map.2 fun b _ => ⟨?_, isWs_of_token (tokenValue?_hex2 b)⟩
    simp [hex2]
  obtain ⟨hleft, hright⟩ := trim_joined_tokens htoks hgraphic
  have hcut : splitOn chSpace ([chSpace].intercalate (bytes.map hex2)) = bytes.map hex2 :=
    splitOn_joined_tokens htoks fun tok ht hs => absurd ((hgraphic tok ht).2 _ hs) (by decide)
  have hdrop : (chSpace :: hexGroup bytes).dropWhile isWs = [chSpace].intercalate (bytes.map hex2) := by
    rw [List.dropWhile_cons_of_pos (by decide), hexGroup_eq_intercalate, hleft]
  have hvalues : (bytes.map hex2).map tokenValue? = bytes.map some := by
    simp [tokenValue?_hex2]
  rw [dumpLine, scanLine_eq_scanTokens rfl (chColon_not_mem_blockWord_append hlabel), hdrop, hright, hcut]
  exact scanTokens_of_values hvalues

theorem chLf_not_mem_dumpLine {label bytes : List Byte} (h : chLf ∉ label) : chLf ∉ dumpLine label bytes := by
  have hword : chLf ∉ blockWord := by decide
  have hsep : chLf ≠ chColon ∧ chLf ≠ chSpace := by decide
  simp [dumpLine, hword, h, hsep, chLf_not_mem_hexGroup]

/-! Rendered dumps. -/

/-- A cut at the line ends takes the first line off a dump (R91). -/
theorem splitOn_dumpText_cons {label : List Byte} (bytes : List Byte) (more : List (List Byte × List Byte))
    (h : chLf ∉ label) : splitOn chLf (dumpText ((label, bytes) :: more)) =
      dumpLine label bytes :: splitOn chLf (dumpText more) := by
  simp only [dumpText, splitOn_eq_list_splitOn]
  exact List.splitOn_append_cons_self_of_not_mem (chLf_not_mem_dumpLine h) _

theorem scanLines_dumpText {lines : List (List Byte × List Byte)}
    (h : ∀ l ∈ lines, chColon ∉ l.1 ∧ chLf ∉ l.1 ∧ l.2 ≠ []) (line p : Nat) :
    scanLines line p (splitOn chLf (dumpText lines)) = .ok (lines.flatMap (·.2)) := by
  induction lines generalizing line p with
  | nil => rfl
  | cons l more ih =>
    obtain ⟨⟨hcolon, hlf, hne⟩, hmore⟩ := List.forall_mem_cons.1 h
    rw [splitOn_dumpText_cons _ _ hlf, List.flatMap_cons]
    simp only [scanLines, scanLine_dumpLine hcolon hne, ih hmore]

/-- Settles O42: the lines give their byte groups one after another, of which there is at least one byte. -/
theorem renderedDumpParsesBack : Obligations.RenderedDumpParsesBack := by
  intro lines hlines h
  have hscan := scanLines_dumpText h 1 0
  rcases parse_cases (dumpText lines) with ⟨I, hp, hI, -⟩ | ⟨-, hempty⟩ | ⟨e, -, he⟩
  · rw [hp, ← hI, hscan]
  · have hnone : lines.flatMap (·.2) = [] := Except.ok.inj (hscan.symm.trans hempty)
    obtain ⟨l, more, rfl⟩ := List.exists_cons_of_ne_nil hlines
    obtain ⟨-, -, hne⟩ := h l (by simp)
    exact absurd (List.flatMap_eq_nil_iff.1 hnone l (by simp)) hne
  · cases hscan.symm.trans he

end Sys2Proof.Machine

/-! The loops of R131 (O38): over each piece of the text, a line, a payload or a token, they do what `parse` does with
that piece. -/

namespace Sys2Proof.Machine

/-! The offsets of R131. A piece of the text that begins at offset `a` stands at the head of `T.drop a`; each cursor of
the loops is found from the piece it moves over. -/

section
variable {T seg pre : List Byte} {a : Nat} {x : Byte}

theorem textAt_of_prefix (h : x :: seg <+: T.drop a) : textAt T a = x := by
  obtain ⟨rest, h⟩ := h
  have hx : (T.drop a)[0]? = some x := by rw [← h]; rfl
  rw [List.getElem?_drop, Nat.add_zero] at hx
  rw [textAt, List.getD_eq_getElem?_getD, hx, Option.getD_some]

theorem isPrefix_drop_of_append (h : pre ++ seg <+: T.drop a) : seg <+: T.drop (a + pre.length) := by
  simpa [List.drop_drop] using h.drop pre.length

theorem isPrefix_drop_succ (h : x :: seg <+: T.drop a) : seg <+: T.drop (a + 1) :=
  isPrefix_drop_of_append (pre := [x]) h

theorem textAt_add_of_prefix (h : seg <+: T.drop a) {k : Nat} (hk : k < seg.length) : textAt T (a + k) = seg[k] :=
  textAt_of_prefix (seg := seg.drop (k + 1)) (by rw [← List.drop_eq_getElem_cons hk]; simpa using h.drop k)

/-- `least` finds the first byte `x` of the piece (R10). -/
theorem leastFrom_eq_findIdx? (h : seg <+: T.drop a) :
    leastFrom T x seg.length a = (seg.findIdx? (· == x)).map (a + ·) := by
  induction seg generalizing a with
  | nil => rfl
  | cons y ys ih =>
    rw [List.length_cons, leastFrom, textAt_of_prefix h, List.findIdx?_cons]
    by_cases hy : y = x
    · simp [hy]
    · rw [if_neg hy, ih (isPrefix_drop_succ h), if_neg (by simpa using hy), Option.map_map]
      exact congrArg (Option.map · _) (funext fun k => by simp only [Function.comp]; omega)

theorem least?_eq_findIdx? (h : seg <+: T.drop a) (x : Byte) :
    least? T x a (a + seg.length) = (seg.findIdx? (· == x)).map (a + ·) := by
  rw [least?, Nat.add_sub_cancel_left, leastFrom_eq_findIdx? h]

theorem findIdx?_of_not_mem (hx : x ∉ seg) : seg.findIdx? (· == x) = none :=
  List.findIdx?_eq_none_iff.2 fun y hy => beq_eq_false_iff_ne.2 fun he : y = x => hx (he ▸ hy)

/-- A piece without the separator ends where the bytes end. -/
theorem least?_of_not_mem (h : seg <+: T.drop a) (hx : x ∉ seg) : least? T x a (a + seg.length) = none := by
  rw [least?_eq_findIdx? h, findIdx?_of_not_mem hx, Option.map_none]

/-- The first separator stands after a part without one. -/
theorem least?_of_append (h : pre ++ x :: seg <+: T.drop a) (hx : x ∉ pre) :
    least? T x a (a + (pre ++ x :: seg).length) = some (a + pre.length) := by
  rw [least?_eq_findIdx? h, List.findIdx?_append, findIdx?_of_not_mem hx, List.findIdx?_cons]
  simp

/-- The cursor `lo` passes the whitespace at the left end (R94). -/
theorem trimLo_eq_takeWhile (h : seg <+: T.drop a) :
    trimLo T seg.length a = a + (seg.takeWhile isWs).length := by
  induction seg generalizing a with
  | nil => rfl
  | cons y ys ih =>
    rw [List.length_cons, trimLo, textAt_of_prefix h]
    by_cases hy : isWs y = true
    · rw [if_pos hy, ih (isPrefix_drop_succ h), List.takeWhile_cons_of_pos hy, List.length_cons]; omega
    · rw [if_neg hy, List.takeWhile_cons_of_neg hy]; rfl

theorem trimRight_append_singleton (bytes : List Byte) (x : Byte) :
    trimRight (bytes ++ [x]) = if isWs x then trimRight bytes else bytes ++ [x] := by
  by_cases hx : isWs x = true <;> simp [trimRight, hx]

theorem trimRight_prefix (bytes : List Byte) : trimRight bytes <+: bytes := by
  simpa [trimRight] using List.reverse_prefix.2 (List.dropWhile_suffix isWs (l := bytes.reverse))

/-- The cursor `hi` passes the whitespace at the right end (R94). -/
theorem trimHi_eq_trimRight (h : seg <+: T.drop a) :
    trimHi T a (a + seg.length) = a + (trimRight seg).length := by
  induction seg using List.reverseRecOn with
  | nil => cases a <;> simp [trimHi, trimRight]
  | append_singleton ys y ih =>
    have hy : textAt T (a + ys.length) = y := textAt_of_prefix (isPrefix_drop_of_append h)
    have hlt : a + ys.length + 1 > a := by omega
    rw [List.length_append, List.length_singleton, ← Nat.add_assoc, trimHi, hy, trimRight_append_singleton]
    by_cases hws : isWs y = true
    · rw [if_pos ⟨hlt, hws⟩, if_pos hws, ih ((List.prefix_append ys [y]).trans h)]
    · rw [if_neg fun hc => hws hc.2, if_neg hws, List.length_append, List.length_singleton, Nat.add_assoc]

/-! The tokens of a payload. -/

/-- `ValidToken` and `TokenValue` together are `tokenValue?` of the piece (R96). -/
theorem tokenValue?_eq_validToken (h : seg <+: T.drop a) : tokenValue? seg =
    if validToken T a (a + seg.length) then some (tokenValue T a (a + seg.length)) else none := by
  match seg, h with
  | [], _ => simp [tokenValue?, validToken]
  | [b], h =>
    cases hb : digit? b <;> simp [tokenValue?, validToken, tokenValue, textAt_of_prefix h, hb]
  | [b, c], h =>
    have hc : textAt T (a + 1) = c := textAt_of_prefix (isPrefix_drop_succ h)
    cases hb : digit? b <;> cases hd : digit? c <;>
      simp [tokenValue?, validToken, tokenValue, textAt_of_prefix h, hc, hb, hd]
  | _ :: _ :: _ :: _, _ => simp [tokenValue?, validToken]

end

/-- A cut takes the part before the first separator off, or leaves a text without one whole (R91, R95). -/
theorem splitOn_cases (sep : Byte) (bytes : List Byte) :
    (sep ∉ bytes ∧ splitOn sep bytes = [bytes]) ∨
    ∃ piece more, bytes = piece ++ sep :: more ∧ sep ∉ piece ∧ splitOn sep bytes = piece :: splitOn sep more := by
  simp only [splitOn_eq_list_splitOn]
  by_cases h : sep ∈ bytes
  · obtain ⟨piece, more, rfl, hpiece⟩ := List.eq_append_cons_of_mem h
    exact .inr ⟨piece, more, rfl, hpiece, List.splitOn_append_cons_self_of_not_mem hpiece more⟩
  · exact .inl ⟨h, List.splitOn_eq_singleton h⟩

/-- The inner loop appends the values of the tokens, given one unit of fuel for each (R136 to R138, R142). -/
theorem tokenLoop_eq_scanTokens {T seg : List Byte} {t : Nat} (line fuel : Nat) (image : List Byte)
    (h : seg <+: T.drop t) (hfuel : seg.count chSpace < fuel) :
    tokenLoop T line (t + seg.length) fuel t image =
      (scanTokens line t (splitOn chSpace seg)).map (image ++ ·) := by
  induction fuel generalizing t seg image with
  | zero => omega
  | succ fuel ih =>
    rw [tokenLoop]
    rcases splitOn_cases chSpace seg with ⟨hsp, hcut⟩ | ⟨tok, more, rfl, hsp, hcut⟩
    · rw [least?_of_not_mem h hsp, Option.getD_none, hcut, scanTokens, tokenValue?_eq_validToken h]
      by_cases hv : validToken T t (t + seg.length) = true
      · simp [hv, scanTokens, Except.map]
      · simp [hv, Except.map]
    · have htok : tok <+: T.drop t := (List.prefix_append ..).trans h
      have hmore : more <+: T.drop (t + tok.length + 1) := isPrefix_drop_succ (isPrefix_drop_of_append h)
      have hend : t + (tok ++ chSpace :: more).length = t + tok.length + 1 + more.length := by simp; omega
      have hcount : more.count chSpace < fuel := by simp at hfuel; omega
      rw [least?_of_append h hsp, Option.getD_some, hcut, scanTokens, tokenValue?_eq_validToken htok, hend]
      by_cases hv : validToken T t (t + tok.length) = true
      · have hne : t + tok.length ≠ t + tok.length + 1 + more.length := by omega
        simp only [hv, if_true, if_neg hne, ih _ hmore hcount]
        cases scanTokens line (t + tok.length + 1) (splitOn chSpace more) <;> simp [Except.map]
      · simp [hv, Except.map]

/-- The cursors `lo` and `hi` cut the whitespace around a payload off before the inner loop runs (R135, R136). -/
theorem tokenLoop_of_payload {T raw : List Byte} {a : Nat} (line : Nat) (image : List Byte) (h : raw <+: T.drop a) :
    tokenLoop T line (trimHi T (trimLo T raw.length a) (a + raw.length))
        (trimHi T (trimLo T raw.length a) (a + raw.length) - trimLo T raw.length a + 1) (trimLo T raw.length a) image =
      (scanTokens line (a + (raw.takeWhile isWs).length)
        (splitOn chSpace (trimRight (raw.dropWhile isWs)))).map (image ++ ·) := by
  have hbody : raw.dropWhile isWs <+: T.drop (a + (raw.takeWhile isWs).length) :=
    isPrefix_drop_of_append (by rwa [List.takeWhile_append_dropWhile])
  have hlen : (raw.takeWhile isWs).length + (raw.dropWhile isWs).length = raw.length := by
    rw [← List.length_append, List.takeWhile_append_dropWhile]
  rw [trimLo_eq_takeWhile h, ← hlen, ← Nat.add_assoc, trimHi_eq_trimRight hbody, Nat.add_sub_cancel_left]
  exact tokenLoop_eq_scanTokens line _ image ((trimRight_prefix _).trans hbody)
    (Nat.lt_succ_of_le List.count_le_length)

/-! The lines of the text. -/

/-- The test for "Block" on the offsets is the test on the line (R92). -/
theorem isBlockLine_iff_textAt {T bytes : List Byte} {p : Nat} (h : bytes <+: T.drop p) :
    (p + bytes.length - p ≥ 5 ∧ (List.range 5).map (fun k => textAt T (p + k)) = blockWord) ↔
      isBlockLine bytes = true := by
  have hword (h5 : 5 ≤ bytes.length) : (List.range 5).map (fun k => textAt T (p + k)) = bytes.take 5 := by
    refine List.ext_getElem (by simpa using h5) fun k hk _ => ?_
    have hk5 : k < 5 := by simpa using hk
    rw [List.getElem_map, List.getElem_range, List.getElem_take, textAt_add_of_prefix h (by omega)]
  constructor
  · rintro ⟨h5, hmap⟩
    rw [isBlockLine, ← hword (by omega), hmap, beq_self_eq_true]
  · intro hb
    have h5 := isBlockLine_length hb
    exact ⟨by omega, (hword h5).trans (eq_of_beq hb)⟩

/-- The body of the outer loop appends the bytes of the line (R132 to R138). -/
theorem lineBody_eq_scanLine {T bytes : List Byte} {p : Nat} (line : Nat) (image : List Byte)
    (h : bytes <+: T.drop p) :
    lineBody T line p (p + bytes.length) image = (scanLine line p bytes).map (image ++ ·) := by
  rw [lineBody, scanLine]
  simp only [isBlockLine_iff_textAt h, least?_eq_findIdx? h]
  by_cases hb : isBlockLine bytes = true
  · rw [if_pos hb, if_pos hb]
    cases hc : bytes.findIdx? (· == chColon) with
    | none => rfl
    | some c =>
      obtain ⟨-, hlt⟩ := findColon_le hb hc
      have hraw : bytes.drop (c + 1) <+: T.drop (p + c + 1) := by
        simpa [List.drop_drop, Nat.add_assoc] using h.drop (c + 1)
      have hlen : (bytes.drop (c + 1)).length = p + bytes.length - (p + c + 1) := by
        rw [List.length_drop]; omega
      have hend : p + c + 1 + (bytes.drop (c + 1)).length = p + bytes.length := by omega
      have hloop := tokenLoop_of_payload line image hraw
      rw [hend, hlen] at hloop
      exact hloop
  · rw [if_neg hb, if_neg hb]; simp [Except.map]

/-- The outer loop appends the bytes of the lines, given one unit of fuel for each (R131, R142). -/
theorem lineLoop_eq_scanLines {T bytes : List Byte} {p : Nat} (line fuel : Nat) (image : List Byte)
    (h : bytes <+: T.drop p) (hend : p + bytes.length = T.length) (hfuel : bytes.count chLf < fuel) :
    lineLoop T fuel line p image = (scanLines line p (splitOn chLf bytes)).map (image ++ ·) := by
  induction fuel generalizing line p bytes image with
  | zero => omega
  | succ fuel ih =>
    rw [lineLoop, ← hend]
    rcases splitOn_cases chLf bytes with ⟨hlf, hcut⟩ | ⟨first, more, rfl, hlf, hcut⟩
    · rw [least?_of_not_mem h hlf, Option.getD_none, hcut, scanLines, lineBody_eq_scanLine line image h]
      cases scanLine line p bytes <;> simp [scanLines, Except.map]
    · have hfirst : first <+: T.drop p := (List.prefix_append ..).trans h
      have hmore : more <+: T.drop (p + first.length + 1) := isPrefix_drop_succ (isPrefix_drop_of_append h)
      have hlen : (first ++ chLf :: more).length = first.length + (1 + more.length) := by simp; omega
      have hcount : more.count chLf < fuel := by simp at hfuel; omega
      have hne : p + first.length ≠ p + (first ++ chLf :: more).length := by omega
      rw [least?_of_append h hlf, Option.getD_some, hcut, scanLines, lineBody_eq_scanLine line image hfirst]
      cases scanLine line p first with
      | error e => rfl
      | ok vs =>
        simp only [Except.map, if_neg hne, ih _ _ hmore (by omega) hcount]
        cases scanLines (line + 1) (p + first.length + 1) (splitOn chLf more) <;> simp

/-- Settles O38: both scan the same pieces, and both answer `NoBlockData` when a complete scan gives no byte. -/
theorem parseLoopsAgree : Obligations.ParseLoopsAgree := by
  intro T
  have hfuel : T.count chLf < T.length + 1 := Nat.lt_succ_of_le List.count_le_length
  have hloop : lineLoop T (T.length + 1) 1 0 [] = (scanLines 1 0 (splitOn chLf T)).map ([] ++ ·) :=
    lineLoop_eq_scanLines 1 _ [] (List.prefix_refl T) (Nat.zero_add _) hfuel
  rw [parse, parseLoops, hloop]
  rcases scanLines 1 0 (splitOn chLf T) with e | (_ | ⟨v, vs⟩) <;> rfl

end Sys2Proof.Machine

/-! The command `PARSE` (O43, O44) and the errors of the parser (O39, O41). -/

namespace Sys2Proof.Machine

/-! `PARSE` as a function of the text. -/

theorem exec_parse_ok {s : State} {I : List Byte} (h : parse s.text = .ok I) :
    exec .parse s = .next (s.startImage.storeImage I).markDone := by
  simp only [exec, execParse, h]

theorem exec_parse_error {s : State} {e : FormatError} (h : parse s.text = .error e) :
    exec .parse s = .next (s.startImage.raise e) := by
  simp only [exec, execParse, h]

/-- Settles O43: the "start" block, then the image stored or the error raised, each named update written out. -/
theorem parseWritesTheImage : Obligations.ParseWritesTheImage :=
  ⟨by decide, fun _ _ => exec_parse_ok, fun _ => exec_parse_error, fun _ _ _ _ => exec_parse_error,
    exec_answers_next .parse⟩

/-- The text of `PARSE` and `DECODE` is what the host reads of it (R25, R73, R130). -/
theorem text_eq_readTxt {s : State} (h : s.txtLen.toNat ≤ s.txtMax) :
    s.text = (List.range s.txtLen.toNat).map s.readTxt :=
  List.map_congr_left fun _ ha => (readTxt_of_lt (Nat.lt_of_lt_of_le (List.mem_range.1 ha) h)).symm

/-- Settles O44: a stored image reads back below its length, and an error leaves `IMG_LEN` at 0. -/
theorem parseStoresTheImageReadBack : Obligations.ParseStoresTheImageReadBack := by
  refine ⟨fun s I h => ?stored, fun s e h => ?failed, fun s => text_eq_readTxt⟩
  case stored =>
    have hlen := parse_ok_toNat_length h
    have hread (a : Nat) : (s.startImage.storeImage I).markDone.readImg a = if a < I.length then I.getD a 0 else 0 := by
      rw [← hlen]; exact readImg_storeImage s.startImage I a
    have hcell (a : Nat) : (s.startImage.storeImage I).markDone.imgByte a =
        if a < I.length then I.getD a 0 else s.imgByte a := imgByte_storeImage s.startImage I a
    exact ⟨_, exec_parse_ok h, hlen, fun a ha => by rw [hread, if_pos ha], fun a ha => by rw [hread, if_neg (by omega)],
      fun a ha => by rw [hcell, if_neg (by omega)], readTxt_congr rfl rfl rfl, rfl, rfl, rfl, rfl⟩
  case failed =>
    exact ⟨_, exec_parse_error h, readImg_of_imgLen_zero rfl, fun _ => rfl, readTxt_congr rfl rfl rfl,
      rfl, rfl, rfl, rfl⟩

/-! The errors of the parser. -/

/-- The record of a token error lies inside the text, and its line has the five bytes of "Block" (R137, R142). -/
theorem parse_invalidHexToken_bounds {T : List Byte} {line off len : Nat}
    (h : parse T = .error (.invalidHexToken line off len)) :
    1 ≤ line ∧ line ≤ T.count chLf + 1 ∧ line + 4 ≤ T.length ∧ off + len ≤ T.length := by
  rcases parse_cases T with ⟨I, hI, -⟩ | ⟨hnone, -⟩ | ⟨e, he, hscan⟩
  · cases h.symm.trans hI
  · cases h.symm.trans hnone
  · cases h.symm.trans he
    obtain ⟨_, _, _, heq, hlo, hblock, hlines, hoff⟩ := scanLines_error hscan
    cases heq
    have hcut := splitOn_length chLf T
    have hcount := splitOn_count chLf T
    omega

/-- The registers hold a record of numbers below `2^32` whole (R24). -/
theorem record_invalidHexToken_toNat {line off len : Nat} (r : ErrRegs) (hline : line < 2 ^ 32) (hoff : off < 2 ^ 32)
    (hlen : len < 2 ^ 32) : (r.record (.invalidHexToken line off len)).line.toNat = line ∧
      (r.record (.invalidHexToken line off len)).tokOff.toNat = off ∧
      (r.record (.invalidHexToken line off len)).tokLen.toNat = len :=
  ⟨(BitVec.toNat_ofNat ..).trans (Nat.mod_eq_of_lt hline), (BitVec.toNat_ofNat ..).trans (Nat.mod_eq_of_lt hoff),
    (BitVec.toNat_ofNat ..).trans (Nat.mod_eq_of_lt hlen)⟩

/-- `PARSE` and `DECODE` raise a parse error alike (R141, R228). -/
theorem exec_parse_error_of_mem {s : State} {e : FormatError} {i : Instr} (h : parse s.text = .error e)
    (hi : i ∈ [Instr.parse, .decode]) : exec i s = .next (s.startImage.raise e) := by
  rcases List.mem_pair.1 hi with rfl | rfl
  · exact exec_parse_error h
  · exact exec_decode_parse_error h

/-- Settles O41: the bounds of `scanLines_error` over the cut text, which is shorter than `2^32` bytes in every state. -/
theorem errorRecordIsBounded : Obligations.ErrorRecordIsBounded := by
  refine ⟨fun T line off len h => ?bounds, fun T e h => ?kinds, fun s line off len h i hi => ?registers⟩
  case bounds =>
    obtain ⟨hlo, hlines, hblock, hoff⟩ := parse_invalidHexToken_bounds h
    exact ⟨hlo, hlines, hblock, by omega, hoff⟩
  case kinds =>
    exact (parse_error_cases h).imp_right fun ⟨line, off, len, he, _⟩ => ⟨line, off, len, he⟩
  case registers =>
    obtain ⟨-, -, hblock, hoff⟩ := parse_invalidHexToken_bounds h
    have hT := text_length_lt s
    exact ⟨_, exec_parse_error_of_mem h hi, rfl,
      record_invalidHexToken_toNat .clear (by omega) (by omega) (by omega)⟩

/-- Settles O39: the lines give no bytes exactly when none is a Block line (`scanLines_empty`). -/
theorem noBlockDataMeansNoBlockLine : Obligations.NoBlockDataMeansNoBlockLine := by
  refine ⟨fun T => ?_, rfl⟩
  rw [← scanLines_empty (line := 1) (p := 0)]
  rcases parse_cases T with ⟨I, hp, hscan, hne⟩ | ⟨hp, hscan⟩ | ⟨e, hp, hscan⟩
  · simp [hp, hscan, hne]
  · simp [hp, hscan]
  · obtain ⟨_, _, _, rfl, -⟩ := scanLines_error hscan
    simp [hp, hscan]

end Sys2Proof.Machine

/-! `Validate` and the command `VALIDATE` (O21, O22). -/

namespace Sys2Proof.Machine

/-! The expected check byte does not depend on the order of the UID bytes (R162). -/

theorem expectedBcc_swap_first (a b c d : Byte) : expectedBcc a b c d = expectedBcc b a c d := by
  simp only [expectedBcc, BitVec.xor_comm a b]

theorem expectedBcc_swap_middle (a b c d : Byte) : expectedBcc a b c d = expectedBcc a c b d := by
  simp only [expectedBcc, BitVec.xor_assoc a, BitVec.xor_comm b c]

theorem expectedBcc_swap_last (a b c d : Byte) : expectedBcc a b c d = expectedBcc a b d c := by
  simp only [expectedBcc, BitVec.xor_assoc (a ^^^ b), BitVec.xor_comm c d]

/-- Four equal bytes cancel in pairs. -/
theorem expectedBcc_self (a : Byte) : expectedBcc a a a a = 0#8 := by
  simp only [expectedBcc, BitVec.xor_self, BitVec.zero_xor]

/-! The two results of `Validate` (R161). -/

/-- `Validate` reads the UID bytes only through their expected check byte. -/
theorem validate_congr {a b c d a' b' c' d' : Byte} (h : expectedBcc a b c d = expectedBcc a' b' c' d') (k : Byte) :
    validate a b c d k = validate a' b' c' d' k := by
  simp only [validate, h]

theorem validate_valid_iff (a b c d k : Byte) : (validate a b c d k).1 = true ↔ expectedBcc a b c d = k := by
  simp only [validate, beq_iff_eq]

theorem validate_expected (a b c d k : Byte) : (validate a b c d k).2 = expectedBcc a b c d := rfl

/-- Settles O22: the order and the constant UIDs are laws of the expected byte; the other clauses are
`validate_valid_iff`. -/
theorem validateLaws : Obligations.ValidateLaws := by
  refine ⟨fun a b c d k => ?order, fun a b c d => ?roundTrip, fun a b c d => ?oneCheckByte, fun k => ?constantUids,
    fun a b c d k => ?xorZero⟩
  case order =>
    exact ⟨validate_congr (expectedBcc_swap_first a b c d) k, validate_congr (expectedBcc_swap_middle a b c d) k,
      validate_congr (expectedBcc_swap_last a b c d) k⟩
  case roundTrip => exact (validate_valid_iff a b c d _).2 rfl
  case oneCheckByte =>
    exact ⟨expectedBcc a b c d, (validate_valid_iff a b c d _).2 rfl,
      fun k' hk' => ((validate_valid_iff a b c d k').1 hk').symm⟩
  case constantUids => exact ⟨expectedBcc_self 0x00, expectedBcc_self 0xFF⟩
  case xorZero =>
    rw [validate_valid_iff, validate_expected]
    exact BitVec.xor_eq_zero_iff

/-- The flag byte of `RES[0]` compares the expected byte with the given one. -/
theorem boolByte_validate_valid (a b c d k : Byte) :
    boolByte (validate a b c d k).1 = if expectedBcc a b c d = k then 1 else 0 := by
  simp only [boolByte, validate_valid_iff]

/-- Settles O21: the command is `State.leafResult` of the two results of `Validate`. -/
theorem validateResult : Obligations.ValidateResult := by
  refine ⟨rfl, fun s => ?_⟩
  rw [exec_validate, leafResult_eq, boolByte_validate_valid]
  rfl

end Sys2Proof.Machine

/-! `MfrId`, `MfrName`, the command `LOOKUP` and the manufacturer rows (O23 to O26). -/

namespace Sys2Proof.Machine

/-! The constant table and the opcode table list the same codes, each once (R172). -/

theorem mfrTable_codes : mfrTable.map (·.1) = mfrCodes := rfl

theorem mfrCodes_nodup : mfrCodes.Nodup := by decide

/-! `MfrId` is the place of the code in that list (R171). -/

/-- A search that ends with its rows at the default number counts on from `i` to the first row of the code. -/
theorem mfrIdFrom_eq_add_idxOf (code : Byte) {rows : List (Byte × String)} {i : Nat}
    (h : i + rows.length = mfrUnknown) : mfrIdFrom code i rows = i + (rows.map (·.1)).idxOf code := by
  induction rows generalizing i with
  | nil => exact h.symm
  | cons row rows ih =>
    have hrows : i + 1 + rows.length = mfrUnknown := by rw [← h, List.length_cons]; omega
    by_cases hc : row.1 = code
    · simp [mfrIdFrom, hc]
    · simp [mfrIdFrom, hc, ih hrows, List.idxOf_cons_ne]; omega

theorem mfrId_eq_idxOf (code : Byte) : mfrId code = mfrCodes.idxOf code :=
  (mfrIdFrom_eq_add_idxOf code (by decide)).trans (by rw [mfrTable_codes, Nat.zero_add])

/-- A code without a row has the default number (R171). -/
theorem mfrId_eq_unknown_iff (code : Byte) : mfrId code = mfrUnknown ↔ code ∉ mfrCodes := by
  rw [mfrId_eq_idxOf]
  exact List.idxOf_eq_length_iff

theorem mfrId_le (code : Byte) : mfrId code ≤ mfrUnknown := by
  rw [mfrId_eq_idxOf]
  exact List.idxOf_le_length

/-- The number of a code is the number of its row, which is the only one with that code. -/
theorem mfrId_eq_iff_getElem? (code : Byte) {i : Nat} (hi : i < mfrCodes.length) :
    mfrId code = i ↔ mfrCodes[i]? = some code := by
  rw [mfrId_eq_idxOf, List.getElem?_eq_some_iff]
  constructor
  · rintro rfl
    exact ⟨hi, List.getElem_idxOf hi⟩
  · rintro ⟨-, rfl⟩
    exact mfrCodes_nodup.idxOf_getElem i hi

/-- The name of an entry number that is a row's is the name in the row (R34). -/
theorem mfrEntryName_of_row {entry : Nat} {row : Byte × String} (h : mfrTable[entry]? = some row) :
    mfrEntryName entry = row.2 := by
  simp only [mfrEntryName, h]

/-- Settles O24: the numbers are places in a list of codes without repetitions. -/
theorem mfrIdFindsTheRow : Obligations.MfrIdFindsTheRow := by
  refine ⟨rfl, fun code => ⟨fun i hi => ?row, ?noRow, mfrId_le code, fun h => ?default, fun row => mfrEntryName_of_row⟩⟩
  case row =>
    rw [← List.getElem?_map, mfrTable_codes]
    exact mfrId_eq_iff_getElem? code hi
  case noRow =>
    refine (mfrId_eq_unknown_iff code).trans ?_
    simp only [← mfrTable_codes, List.mem_map, not_exists, not_and, ne_eq]
  case default => rw [mfrName, h]; rfl

/-! The look-up of an entry number. -/

/-- The next state of a look-up (R174). -/
theorem lookupEntry_eq (s : State) (entry : Nat) : s.lookupEntry entry = { s with
    status := { s.status with st := .done, resValid := true, illcmd := false }
    err := .clear, res := ⟨.ofNat 8 entry, 0, 0⟩ } :=
  leafResult_eq s _ 0 0

/-- Settles O23: the command is the look-up of the number of its operand. -/
theorem lookupResult : Obligations.LookupResult := by
  refine ⟨rfl, fun s => ?_⟩
  rw [exec_lookup, lookupEntry_eq]
  rfl

/-- The default row is the look-up of the default number, for every code (R171). -/
theorem exec_mfrDefault (code : Byte) (s : State) : exec (.mfrDefault code) s = .next (s.lookupEntry mfrUnknown) := rfl

/-- The row that a code decodes to is the look-up of the code's number. -/
theorem exec_decodeMfr (code : Byte) (s : State) : exec (decodeMfr code) s = .next (s.lookupEntry (mfrId code)) := by
  by_cases hc : code ∈ mfrCodes
  · unfold mfrCodes at hc
    fin_cases hc <;> rfl
  · rw [decodeMfr_of_not_mem hc, (mfrId_eq_unknown_iff code).2 hc, exec_mfrDefault]

/-- Settles O26: both sides are the look-up of the number of `ARG[0]`. -/
theorem lookupRunsTheRowOfItsOperand : Obligations.LookupRunsTheRowOfItsOperand :=
  fun s => (exec_lookup s).trans (exec_decodeMfr s.arg.a0 s).symm

/-- The 36 rows of the listed codes with their entry numbers, in the order of the table (R172). -/
def mfrRows : List (Instr × Byte) := mfrCodes.map fun code => (decodeMfr code, .ofNat 8 (mfrId code))

/-- Settles O25: the rows but the last are those of the listed codes, each of which `exec_decodeMfr` runs. -/
theorem mfrRowsWriteTheirEntry : Obligations.MfrRowsWriteTheirEntry := by
  intro s code p hp
  have hrows : p ∈ mfrRows ++ [(.mfrDefault code, 36)] := hp
  rcases List.mem_append.1 hrows with hrow | hdefault
  · obtain ⟨c, -, rfl⟩ := List.mem_map.1 hrow
    exact (exec_decodeMfr c s).trans (congrArg _ (lookupEntry_eq s _))
  · cases List.mem_singleton.1 hdefault
    exact (exec_mfrDefault code s).trans (congrArg _ (lookupEntry_eq s _))

end Sys2Proof.Machine

/-! `AccDec`, the command `ACCDEC` and the access pattern rows (O27 to O30). -/

namespace Sys2Proof.Machine

/-! The three fields of the access string (R102, R182). -/

/-- A slice has the value of its three positions, the first most significant (R182). -/
theorem slice3_toNat (S : List Bool) (a : Nat) : (slice3 S a).toNat =
    4 * (S.getD a false).toNat + 2 * (S.getD (a + 1) false).toNat + (S.getD (a + 2) false).toNat := by
  rw [slice3]
  generalize S.getD a false = x, S.getD (a + 1) false = y, S.getD (a + 2) false = z
  revert x y z
  decide

/-- A bit of a byte as a number. -/
theorem toNat_getLsbD (b : Byte) (i : Nat) : (b.getLsbD i).toNat = b.toNat / 2 ^ i % 2 :=
  Nat.toNat_testBit b.toNat i

/-- The value of a field as arithmetic on the bytes (R102). -/
def fieldOf (f : AccField) (b0 b1 : Byte) : Nat :=
  match f with
  | .read => readFieldOf b0
  | .write => writeFieldOf b0
  | .incDec => incDecFieldOf b0 b1

/-- The slice of the access string has the value that the bytes give by division. -/
theorem accField_toNat (f : AccField) (b0 b1 b2 : Byte) : (accField f b0 b1 b2).toNat = fieldOf f b0 b1 := by
  have h0 := b0.isLt
  have h1 := b1.isLt
  rw [accField, slice3_toNat]
  cases f
  case read =>
    change 4 * (b0.getLsbD 7).toNat + 2 * (b0.getLsbD 6).toNat + (b0.getLsbD 5).toNat = b0.toNat / 32
    simp only [toNat_getLsbD]
    omega
  case write =>
    change 4 * (b0.getLsbD 4).toNat + 2 * (b0.getLsbD 3).toNat + (b0.getLsbD 2).toNat = b0.toNat / 4 % 8
    simp only [toNat_getLsbD]
    omega
  case incDec =>
    change 4 * (b0.getLsbD 1).toNat + 2 * (b0.getLsbD 0).toNat + (b1.getLsbD 7).toNat =
      2 * (b0.toNat % 4) + b1.toNat / 128
    simp only [toNat_getLsbD]
    omega

theorem ofNat_fieldOf (f : AccField) (b0 b1 b2 : Byte) : .ofNat 3 (fieldOf f b0 b1) = accField f b0 b1 b2 := by
  rw [← accField_toNat f b0 b1 b2, BitVec.ofNat_toNat, BitVec.setWidth_eq]

/-- No field holds a bit of `b1[6:0]` or of `b2` (R185). -/
theorem accField_congr (f : AccField) (b0 : Byte) {b1 b1' : Byte} (h : b1.getLsbD 7 = b1'.getLsbD 7) (b2 b2' : Byte) :
    accField f b0 b1 b2 = accField f b0 b1' b2' := by
  cases f
  case read => rfl
  case write => rfl
  case incDec =>
    change BitVec.ofBool (b0.getLsbD 1) ++ BitVec.ofBool (b0.getLsbD 0) ++ BitVec.ofBool (b1.getLsbD 7) =
      BitVec.ofBool (b0.getLsbD 1) ++ BitVec.ofBool (b0.getLsbD 0) ++ BitVec.ofBool (b1'.getLsbD 7)
    rw [h]

/-- The three fields are independent: the arithmetic of R102 the other way gives the bytes that hold three patterns. -/
theorem exists_bytes_of_fields (p : AccField → BitVec 3) : ∃ b0 b1 : Byte, ∀ f b2, accField f b0 b1 b2 = p f := by
  have hr := (p .read).isLt
  have hw := (p .write).isLt
  have hi := (p .incDec).isLt
  refine ⟨.ofNat 8 (32 * (p .read).toNat + 4 * (p .write).toNat + (p .incDec).toNat / 2),
    .ofNat 8 (128 * ((p .incDec).toNat % 2)), fun f b2 => BitVec.eq_of_toNat_eq ?_⟩
  rw [accField_toNat]
  cases f <;> simp only [fieldOf, readFieldOf, writeFieldOf, incDecFieldOf, BitVec.toNat_ofNat] <;> omega

/-! The constant table `TIER` (R183). -/

/-- The code of the tier of a pattern is that of its value (R103). -/
theorem tierOf_code : ∀ p, (tierOf p).code = tierCodeOf p.toNat := by decide

/-- The patterns `110` and `111`, and no others, are invalid (R183). -/
theorem tierOf_eq_invalid_iff : ∀ p, tierOf p = .invalid ↔ 6 ≤ p.toNat := by decide

/-- The code of a tier, as a pattern, gives the tier (R103). -/
theorem tierOf_code_setWidth (t : Tier) : tierOf (t.code.setWidth 3) = t := by cases t <;> rfl

/-! The conditions `AccDec` (R181). -/

/-- The tier of one field. -/
def AccessConditions.tier (c : AccessConditions) : AccField → Tier
  | .read => c.rd
  | .write => c.wr
  | .incDec => c.id

theorem AccessConditions.ext_tier {c c' : AccessConditions} (h : ∀ f, c.tier f = c'.tier f) : c = c' := by
  obtain ⟨rd, wr, id⟩ := c
  cases h .read
  cases h .write
  cases h .incDec
  rfl

/-- Writing the tier that stands there already changes nothing. -/
theorem AccessConditions.set_tier (c : AccessConditions) (f : AccField) : c.set f (c.tier f) = c := by
  cases f <;> rfl

theorem accDec_tier (f : AccField) (b0 b1 b2 : Byte) : (accDec b0 b1 b2).tier f = tierOf (accField f b0 b1 b2) := by
  cases f <;> rfl

theorem accDec_tier_code (f : AccField) (b0 b1 b2 : Byte) :
    ((accDec b0 b1 b2).tier f).code = tierCodeOf (fieldOf f b0 b1) := by
  rw [accDec_tier, tierOf_code, accField_toNat]

theorem accDec_tier_eq_invalid_iff (f : AccField) (b0 b1 b2 : Byte) :
    (accDec b0 b1 b2).tier f = .invalid ↔ 6 ≤ fieldOf f b0 b1 := by
  rw [accDec_tier, tierOf_eq_invalid_iff, accField_toNat]

/-- Every three tiers are the conditions of some access string (R185). -/
theorem exists_accDec_eq (c : AccessConditions) : ∃ b0 b1 b2, accDec b0 b1 b2 = c := by
  obtain ⟨b0, b1, hfields⟩ := exists_bytes_of_fields fun f => (c.tier f).code.setWidth 3
  exact ⟨b0, b1, 0, AccessConditions.ext_tier fun f => by rw [accDec_tier, hfields, tierOf_code_setWidth]⟩

/-- Settles O28: each clause about the three tiers is a lemma about the tier of one field; the rest is evaluated. -/
theorem accDecProperties : Obligations.AccDecProperties := by
  refine ⟨fun b0 b1 b1' b2 b2' h => ?dependence, fun b0 b1 b2 => ?codes, fun b0 b1 b2 => ?invalid, exists_accDec_eq,
    by decide, by decide, by decide, by decide, by decide, by decide⟩
  case dependence =>
    exact AccessConditions.ext_tier fun f => by rw [accDec_tier, accDec_tier, accField_congr f b0 h b2 b2']
  case codes =>
    exact ⟨accDec_tier_code .read b0 b1 b2, accDec_tier_code .write b0 b1 b2, accDec_tier_code .incDec b0 b1 b2⟩
  case invalid =>
    exact ⟨accDec_tier_eq_invalid_iff .read b0 b1 b2, accDec_tier_eq_invalid_iff .write b0 b1 b2,
      accDec_tier_eq_invalid_iff .incDec b0 b1 b2⟩

/-! The command and the pattern rows (R186). -/

/-- The next state of a decoding of an access string (R186). -/
theorem accResult_eq (s : State) (c : AccessConditions) : s.accResult c = { s with
    status := { s.status with st := .done, resValid := true, illcmd := false }
    err := .clear, res := ⟨(c.tier .read).code, (c.tier .write).code, (c.tier .incDec).code⟩ } :=
  leafResult_eq s _ _ _

theorem argConditions_tier_code (s : State) (f : AccField) :
    (s.argConditions.tier f).code = tierCodeOf (fieldOf f s.arg.a0 s.arg.a1) :=
  accDec_tier_code f s.arg.a0 s.arg.a1 s.arg.a2

/-- Settles O27: the command stores the conditions of `ARG[0..2]`, whose codes are those of the three fields. -/
theorem accdecResult : Obligations.AccdecResult := by
  refine ⟨rfl, fun s => ?_⟩
  simp only [exec_accdec, accResult_eq, argConditions_tier_code]
  rfl

/-- The row that a pattern decodes to puts the pattern's tier in the place of its field. -/
theorem exec_decodeTier (f : AccField) (p : BitVec 3) (s : State) :
    exec (decodeTier f p) s = .next (s.accFieldResult f (tierOf p)) := by
  obtain ⟨⟨n, hn⟩⟩ := p
  interval_cases n <;> rfl

/-- The next state of a row: the tier in the place of its field, the two other fields from `ARG` (R186). -/
theorem accFieldResult_eq (s : State) (f : AccField) (t : Tier) : s.accFieldResult f t = { s with
    status := { s.status with st := .done, resValid := true, illcmd := false }
    err := .clear
    res := ⟨if f = .read then t.code else tierCodeOf (readFieldOf s.arg.a0),
      if f = .write then t.code else tierCodeOf (writeFieldOf s.arg.a0),
      if f = .incDec then t.code else tierCodeOf (incDecFieldOf s.arg.a0 s.arg.a1)⟩ } := by
  have hread : s.argConditions.rd.code = tierCodeOf (readFieldOf s.arg.a0) := argConditions_tier_code s .read
  have hwrite : s.argConditions.wr.code = tierCodeOf (writeFieldOf s.arg.a0) := argConditions_tier_code s .write
  have hincDec : s.argConditions.id.code = tierCodeOf (incDecFieldOf s.arg.a0 s.arg.a1) :=
    argConditions_tier_code s .incDec
  rw [State.accFieldResult, accResult_eq, ← hread, ← hwrite, ← hincDec]
  cases f <;> rfl

/-- The 8 rows of a field with their tier codes, in the order of the patterns (R183). -/
def tierRows (f : AccField) : List (Instr × Byte) :=
  (List.range 8).map fun n => (decodeTier f (.ofNat 3 n), (tierOf (.ofNat 3 n)).code)

/-- Settles O29: the rows are those of the 8 patterns, each of which `exec_decodeTier` runs. -/
theorem tierRowsWriteTheirTier : Obligations.TierRowsWriteTheirTier := by
  intro s f p hp
  have hrow : p ∈ tierRows f := hp
  obtain ⟨n, -, rfl⟩ := List.mem_map.1 hrow
  exact (exec_decodeTier f _ s).trans (congrArg _ (accFieldResult_eq s f _))

/-- `ACCDEC` runs the row of the pattern that any one field of `ARG` holds: that field's tier already stands there. -/
theorem exec_accdec_eq_row (s : State) (f : AccField) :
    exec .accdec s = exec (decodeTier f (accField f s.arg.a0 s.arg.a1 s.arg.a2)) s := by
  have hset : s.argConditions.set f (tierOf (accField f s.arg.a0 s.arg.a1 s.arg.a2)) = s.argConditions := by
    rw [← accDec_tier]
    exact AccessConditions.set_tier s.argConditions f
  rw [exec_accdec, exec_decodeTier, State.accFieldResult, hset]

/-- Settles O30: the arithmetic on the bytes gives the pattern in the field (`ofNat_fieldOf`). -/
theorem accdecRunsTheRowOfEachField : Obligations.AccdecRunsTheRowOfEachField := by
  intro s f
  have hrow := exec_accdec_eq_row s f
  rw [← ofNat_fieldOf] at hrow
  exact hrow

end Sys2Proof.Machine

/-! `Partition`, `Resolve` and the command `RESOLVE` (O45 to O48). -/

namespace Sys2Proof.Machine

/-! `Partition(N)` lists the tuples of R68 in order, for as many sectors as fit into `N` blocks (R200). -/

/-- The tuple of sector `k` by the closed forms of R68. -/
def sectorSpanOf (k : Nat) : SectorSpan := ⟨k, firstBlockOf k, sectorBlocks k, trailerBlockOf k⟩

theorem sectorBlocks_eq (k : Nat) : sectorBlocks k = if k ≤ 31 then 4 else 16 :=
  if_congr Nat.lt_succ_iff rfl rfl

/-- Each sector begins where the one before it ends. -/
theorem firstBlockOf_succ (k : Nat) : firstBlockOf (k + 1) = firstBlockOf k + sectorBlocks k := by
  rw [sectorBlocks_eq, firstBlockOf, firstBlockOf]
  split_ifs <;> omega

/-- The trailer block is the last block of its sector. -/
theorem trailerBlockOf_eq (k : Nat) : trailerBlockOf k = firstBlockOf k + sectorBlocks k - 1 := by
  rw [sectorBlocks_eq, firstBlockOf, trailerBlockOf]
  split_ifs <;> omega

theorem firstBlockOf_strictMono : StrictMono firstBlockOf :=
  strictMono_nat_of_lt_succ fun k => by
    rw [firstBlockOf_succ, sectorBlocks_eq]
    split_ifs <;> omega

/-- The loop goes on exactly while the next sector ends within the `N` blocks. -/
theorem partitionFrom_succ (N left k : Nat) : partitionFrom N (left + 1) k (firstBlockOf k) =
    if firstBlockOf (k + 1) ≤ N then sectorSpanOf k :: partitionFrom N left (k + 1) (firstBlockOf (k + 1)) else [] := by
  have hpos : firstBlockOf k < firstBlockOf (k + 1) := firstBlockOf_strictMono k.lt_succ_self
  rw [firstBlockOf_succ] at hpos
  rw [partitionFrom, sectorSpanOf, trailerBlockOf_eq, firstBlockOf_succ]
  by_cases hfit : firstBlockOf k + sectorBlocks k ≤ N
  · rw [if_neg (by omega), if_neg (by omega), if_pos hfit]
  · by_cases hend : firstBlockOf k ≥ N
    · rw [if_pos hend, if_neg hfit]
    · rw [if_neg hend, if_pos (by omega), if_neg hfit]

/-- From sector `k` on, with `left` indices left, the loop lists the next `n` sectors: they fit, and if indices are left
then one more does not. -/
theorem partitionFrom_eq (N left k : Nat) (hk : firstBlockOf k ≤ N) :
    ∃ n ≤ left, partitionFrom N left k (firstBlockOf k) = (List.range' k n).map sectorSpanOf ∧
      firstBlockOf (k + n) ≤ N ∧ (n < left → N < firstBlockOf (k + n + 1)) := by
  induction left generalizing k with
  | zero => exact ⟨0, le_rfl, rfl, hk, fun h => absurd h (Nat.lt_irrefl 0)⟩
  | succ left ih =>
    rw [partitionFrom_succ]
    by_cases hfit : firstBlockOf (k + 1) ≤ N
    · obtain ⟨n, hn, hlist, hlast, hstop⟩ := ih (k + 1) hfit
      rw [show k + 1 + n = k + (n + 1) by omega] at hlast hstop
      refine ⟨n + 1, Nat.succ_le_succ hn, ?_, hlast, fun h => hstop (Nat.lt_of_succ_lt_succ h)⟩
      rw [if_pos hfit, hlist, List.range'_succ, List.map_cons]
    · exact ⟨0, Nat.zero_le _, if_neg hfit, hk, fun _ => Nat.lt_of_not_le hfit⟩

/-- `Partition(N)` is the first `n` sectors: they fit, and unless `n` is 40 one more does not. -/
theorem sectorPartition_eq (N : Nat) : ∃ n ≤ 40, sectorPartition N = (List.range n).map sectorSpanOf ∧
    firstBlockOf n ≤ N ∧ (n < 40 → N < firstBlockOf (n + 1)) := by
  obtain ⟨n, hn, hlist, hlast, hstop⟩ := partitionFrom_eq N 40 0 (Nat.zero_le N)
  rw [Nat.zero_add] at hlast hstop
  exact ⟨n, hn, by rw [List.range_eq_range', ← hlist]; rfl, hlast, hstop⟩

/-- The blocks of exactly `n` sectors are partitioned into those. -/
theorem sectorPartition_firstBlockOf {n : Nat} (hn : n ≤ 40) :
    sectorPartition (firstBlockOf n) = (List.range n).map sectorSpanOf := by
  obtain ⟨m, hm, hlist, hlast, hstop⟩ := sectorPartition_eq (firstBlockOf n)
  have hmn : m ≤ n := firstBlockOf_strictMono.le_iff_le.1 hlast
  have hnm : n ≤ m := by
    by_contra hlt
    have := firstBlockOf_strictMono.lt_iff_lt.1 (hstop (by omega))
    omega
  rw [hlist, Nat.le_antisymm hmn hnm]

/-- Settles O45: 64 and 256 are the first blocks after sectors 15 and 39. -/
theorem partitionOfTheTwoGeometries : Obligations.PartitionOfTheTwoGeometries := by
  refine ⟨?k1, ?k4⟩
  case k1 =>
    refine (sectorPartition_firstBlockOf (n := 16) (by omega)).trans (List.map_congr_left fun k hk => ?_)
    have hk := List.mem_range.1 hk
    rw [sectorSpanOf, sectorBlocks_eq, if_pos (by omega)]
  case k4 =>
    refine (sectorPartition_firstBlockOf (n := 40) le_rfl).trans (List.map_congr_left fun k _ => ?_)
    rw [sectorSpanOf, sectorBlocks_eq]

/-- Settles O46: the closed form of `sectorPartition_eq`; a listed sector ends where the next begins, which is not after
the last one's end. -/
theorem partitionIsContiguous : Obligations.PartitionIsContiguous := by
  intro N
  obtain ⟨n, hn, hlist, hlast, hstop⟩ := sectorPartition_eq N
  have hlen : (sectorPartition N).length = n := by rw [hlist, List.length_map, List.length_range]
  rw [hlen, ← sectorBlocks_eq, ← firstBlockOf_succ]
  refine ⟨fun k x hx => ?_, hn, hstop⟩
  obtain ⟨hk, rfl⟩ : k < n ∧ sectorSpanOf k = x := by
    rw [hlist, List.getElem?_map, Option.map_eq_some_iff] at hx
    obtain ⟨i, hi, hspan⟩ := hx
    obtain ⟨hk, hki⟩ := List.getElem?_eq_some_iff.1 hi
    rw [List.getElem_range] at hki
    exact ⟨by simpa using hk, hki ▸ hspan⟩
  have hend : firstBlockOf (k + 1) ≤ N := (firstBlockOf_strictMono.monotone hk).trans hlast
  exact ⟨rfl, rfl, sectorBlocks_eq k, trailerBlockOf_eq k, by rwa [firstBlockOf_succ] at hend⟩

/-! `Resolve` by the length of the image (R197 to R202). -/

theorem resolve_of_misaligned {I : List Byte} (h : I.length % 16 ≠ 0) : resolve I = .error .misalignedImage := if_pos h

theorem resolve_of_other_size {I : List Byte} (h : I.length % 16 = 0) (h1 : I.length ≠ 1024) (h4 : I.length ≠ 4096) :
    resolve I = .error .unsupportedCardSize := by
  rcases resolve_cases I with ⟨hm, -⟩ | ⟨-, -, -, hr⟩ | ⟨hsize, -⟩
  · exact absurd h hm
  · exact hr
  · omega

/-- The layout of an image with `count` sectors, by the closed forms of R68. -/
def layoutOf (I : List Byte) (count : Nat) : CardLayout :=
  ⟨firstBlockOf count, (List.range count).map fun k => trailer I k (trailerBlockOf k)⟩

/-- The image of 1024 bytes has the blocks of 16 sectors, that of 4096 bytes those of 40. -/
theorem resolve_of_geometry {I : List Byte} {count : Nat}
    (h : (I.length = 1024 ∧ count = 16) ∨ (I.length = 4096 ∧ count = 40)) : resolve I = .ok (layoutOf I count) := by
  have hblocks : I.length / 16 = firstBlockOf count := by
    rcases h with ⟨hlen, rfl⟩ | ⟨hlen, rfl⟩ <;> rw [hlen] <;> rfl
  rcases resolve_cases I with ⟨hm, -⟩ | ⟨-, h1, h4, -⟩ | ⟨-, hr⟩
  · omega
  · omega
  · rw [hr, hblocks, sectorPartition_firstBlockOf (by omega), List.map_map]
    rfl

/-! The command `RESOLVE`. -/

theorem exec_resolve_ok {s : State} {lay : CardLayout} (h : resolve s.image = .ok lay) :
    exec .resolve s = .next (s.startLayout.storeLayout lay).markDone := by
  simp only [exec, execResolve, h]

theorem exec_resolve_error {s : State} {e : FormatError} (h : resolve s.image = .error e) :
    exec .resolve s = .next (s.startLayout.raise e) := by
  simp only [exec, execResolve, h]

/-- Settles O47: the image has `IMG_LEN` bytes, and each error is raised after the "start" block. -/
theorem resolveChecksAlignmentThenSize : Obligations.ResolveChecksAlignmentThenSize := by
  refine ⟨fun s hmod => ?misaligned, fun s hmod h1 h4 => ?unsupported⟩
  case misaligned =>
    exact exec_resolve_error (resolve_of_misaligned ((image_length s).symm ▸ hmod))
  case unsupported =>
    rw [← image_length] at hmod h1 h4
    exact exec_resolve_error (resolve_of_other_size hmod h1 h4)

/-! The sector table as the host reads it (R43, R73). -/

/-- The operand of `RESOLVE` is what the host reads of `IMG`, also beyond `IMG_LEN`, where both are 0 (R73). -/
theorem byteAt_image (s : State) (a : Nat) : byteAt s.image a = s.readImg a := by
  rw [byteAt, State.readImg, State.image, List.getD_eq_getElem?_getD, List.getElem?_map]
  by_cases ha : a < s.imgLen.toNat
  · rw [if_pos ha, List.getElem?_range ha]
    rfl
  · rw [if_neg ha, List.getElem?_eq_none (by rw [List.length_range]; omega)]
    rfl

theorem bytesAt_length (I : List Byte) (a n : Nat) : (bytesAt I a n).length = n := by
  rw [bytesAt, List.length_map, List.length_range]

theorem bytesAt_getD (I : List Byte) (a : Nat) {n j : Nat} (hj : j < n) : (bytesAt I a n).getD j 0 = byteAt I (a + j) := by
  rw [bytesAt, List.getD_eq_getElem?_getD, List.getElem?_map, List.getElem?_range hj]
  rfl

/-- The tier code of a field, from the trailer block that begins at byte `a` of the image (R102, R103, R203). -/
def trailerTierCode (I : List Byte) (a : Nat) (f : AccField) : Byte :=
  tierCodeOf (fieldOf f (byteAt I (a + 6)) (byteAt I (a + 7)))

/-- An entry of `SEC` is the 16 bytes of the trailer block and the three tier codes (R43). -/
theorem trailer_bytes (I : List Byte) (k tb : Nat) : (trailer I k tb).bytes = bytesAt I (16 * tb) 16 ++
    [trailerTierCode I (16 * tb) .read, trailerTierCode I (16 * tb) .write, trailerTierCode I (16 * tb) .incDec] := by
  have hcode (f : AccField) : ((trailer I k tb).conditions.tier f).code = trailerTierCode I (16 * tb) f :=
    accDec_tier_code f _ _ _
  rw [← hcode, ← hcode, ← hcode]
  rfl

theorem trailer_bytes_length (I : List Byte) (k tb : Nat) : (trailer I k tb).bytes.length = 19 := by
  rw [trailer_bytes, List.length_append, bytesAt_length]
  rfl

theorem trailer_bytes_getD_block (I : List Byte) (k tb : Nat) {j : Nat} (hj : j < 16) :
    (trailer I k tb).bytes.getD j 0 = byteAt I (16 * tb + j) := by
  rw [trailer_bytes, List.getD_append _ _ _ _ (by rwa [bytesAt_length]), bytesAt_getD _ _ hj]

/-- The offset of a field's tier code in an entry of `SEC` (R43). -/
def tierOffset : AccField → Nat
  | .read => 16
  | .write => 17
  | .incDec => 18

theorem tierOffset_lt (f : AccField) : tierOffset f < 19 := by cases f <;> decide

theorem trailer_bytes_getD_tier (I : List Byte) (k tb : Nat) (f : AccField) :
    (trailer I k tb).bytes.getD (tierOffset f) 0 = trailerTierCode I (16 * tb) f := by
  rw [trailer_bytes]
  cases f <;> rfl

/-- An address that no entry covers reads 0 (R43). -/
theorem readSec_of_not_covered {s : State} {L : List SectorTrailer} (hsec : s.sec = L.foldl writeEntry [])
    (hs : L.Pairwise (fun x y => x.sectorIndex < y.sectorIndex)) (hb : ∀ x ∈ L, x.bytes.length = 19) {a : Nat}
    (ha : ∀ x ∈ L, ¬ (32 * x.sectorIndex ≤ a ∧ a < 32 * x.sectorIndex + 19)) : s.readSec a = 0 := by
  have hnone : L.find? (fun x => decide (32 * x.sectorIndex ≤ a ∧ a < 32 * x.sectorIndex + 19)) = none :=
    List.find?_eq_none.2 fun x hx => by simpa using ha x hx
  have hbyte : s.secByte a = 0 := by
    rw [State.secByte, hsec, read_writeEntries L [] hs hb, hnone]
    rfl
  rw [State.readSec, hbyte, ite_self]

theorem layoutOf_rising (I : List Byte) (count : Nat) :
    (layoutOf I count).sectors.Pairwise (fun x y => x.sectorIndex < y.sectorIndex) :=
  List.pairwise_map.2 List.pairwise_lt_range

theorem layoutOf_index_lt {I : List Byte} {count : Nat} :
    ∀ x ∈ (layoutOf I count).sectors, x.sectorIndex < count := by
  intro x hx
  obtain ⟨k, hk, rfl⟩ := List.mem_map.1 hx
  exact List.mem_range.1 hk

theorem layoutOf_bytes_length {I : List Byte} {count : Nat} :
    ∀ x ∈ (layoutOf I count).sectors, x.bytes.length = 19 := by
  intro x hx
  obtain ⟨k, -, rfl⟩ := List.mem_map.1 hx
  exact trailer_bytes_length I k _

/-- Every byte of `SEC` after a layout has been stored: entry `k` is the trailer of sector `k`, its unwritten offsets and
the entries from `count` on read 0 (R43). -/
theorem readSec_layoutOf {s : State} {I : List Byte} {count : Nat} (hcount : count ≤ 40)
    (hsec : s.sec = (layoutOf I count).sectors.foldl writeEntry []) (k : Nat) {j : Nat} (hj : j < 32) :
    s.readSec (32 * k + j) =
      if k < count then (trailer I k (trailerBlockOf k)).bytes.getD j 0 else 0 := by
  have hrising := layoutOf_rising I count
  have hzero (h : k < count → 19 ≤ j) : s.readSec (32 * k + j) = 0 :=
    readSec_of_not_covered hsec hrising layoutOf_bytes_length fun x hx => by
      have := layoutOf_index_lt x hx
      omega
  by_cases hk : k < count
  · have hx : trailer I k (trailerBlockOf k) ∈ (layoutOf I count).sectors :=
      List.mem_map_of_mem (List.mem_range.2 hk)
    rw [if_pos hk]
    by_cases hwritten : j < 19
    · exact secField_writeEntries hsec hrising
        (fun x hx => ⟨(layoutOf_index_lt x hx).trans_le hcount, layoutOf_bytes_length x hx⟩) hx hwritten
    · have hlen := trailer_bytes_length I k (trailerBlockOf k)
      rw [hzero fun _ => Nat.le_of_not_lt hwritten, List.getD_eq_default _ _ (by omega)]
  · rw [if_neg hk, hzero fun h => absurd h hk]

/-- The next state of `RESOLVE` on an image of one of the two sizes (R210). -/
theorem exec_resolve_of_geometry {s : State} {count : Nat}
    (h : (s.imgLen.toNat = 1024 ∧ count = 16) ∨ (s.imgLen.toNat = 4096 ∧ count = 40)) : exec .resolve s = .next { s with
      status := { s.status with st := .done, layValid := true, illcmd := false }
      err := .clear, geom := if count = 16 then .k1 else .k4, secCount := .ofNat 6 count
      sec := (layoutOf s.image count).sectors.foldl writeEntry [] } := by
  rw [exec_resolve_ok (resolve_of_geometry (by rwa [image_length]))]
  rcases h with ⟨-, rfl⟩ | ⟨-, rfl⟩ <;> rfl

section
variable {s t : State} {count k : Nat} (hcount : count ≤ 40)
  (hsec : t.sec = (layoutOf s.image count).sectors.foldl writeEntry []) (hk : k < count)
include hcount hsec hk

theorem readSec_block {j : Nat} (hj : j < 16) : t.readSec (32 * k + j) = s.readImg (16 * trailerBlockOf k + j) := by
  rw [readSec_layoutOf hcount hsec k (by omega), if_pos hk, trailer_bytes_getD_block _ _ _ hj, byteAt_image]

theorem readSec_tier (f : AccField) : t.readSec (32 * k + tierOffset f) = tierCodeOf
    (fieldOf f (s.readImg (16 * trailerBlockOf k + 6)) (s.readImg (16 * trailerBlockOf k + 7))) := by
  have hf := tierOffset_lt f
  rw [readSec_layoutOf hcount hsec k (by omega), if_pos hk, trailer_bytes_getD_tier, trailerTierCode, byteAt_image,
    byteAt_image]

theorem readSec_padding {j : Nat} (hj : 19 ≤ j) (hj' : j < 32) : t.readSec (32 * k + j) = 0 := by
  rw [readSec_layoutOf hcount hsec k hj', if_pos hk, List.getD_eq_default _ _ (by rwa [trailer_bytes_length])]

end

theorem readSec_above_layout {t : State} {I : List Byte} {count : Nat} (hcount : count ≤ 40)
    (hsec : t.sec = (layoutOf I count).sectors.foldl writeEntry []) {a : Nat} (ha : 32 * count ≤ a) : t.readSec a = 0 := by
  rw [← Nat.div_add_mod a 32, readSec_layoutOf hcount hsec _ (Nat.mod_lt _ (by omega)), if_neg (by omega)]

/-- Settles O48: the next state holds the layout of the image in `SEC`, whose bytes the four lemmas above give. -/
theorem resolveBuildsTheSectorTable : Obligations.ResolveBuildsTheSectorTable := by
  intro s count h
  have hcount : count ≤ 40 := by omega
  exact ⟨_, exec_resolve_of_geometry h, rfl, fun k hk => ⟨fun j => readSec_block hcount rfl hk,
    readSec_tier hcount rfl hk .read, readSec_tier hcount rfl hk .write, readSec_tier hcount rfl hk .incDec,
    fun j => readSec_padding hcount rfl hk⟩, fun a => readSec_above_layout hcount rfl⟩

end Sys2Proof.Machine

/-! A write of a value that a memory holds already changes nothing, so the same `MemWrite` issued twice is the `MemWrite`
issued once (R10), on every list of cells, in canonical form or not. -/

namespace Sys2Proof.Machine

/-! Listing and unlisting an address. -/

section
variable {m : Memory} {k a b : Nat} {v w x : Byte}

theorem Memory.put_cons_of_lt (h : a < k) : Memory.put ((k, x) :: m) a v = (a, v) :: (k, x) :: m := if_pos h

theorem Memory.put_cons_same : Memory.put ((k, x) :: m) k v = (k, v) :: m := by simp [Memory.put]

theorem Memory.put_cons_of_gt (h : k < a) : Memory.put ((k, x) :: m) a v = (k, x) :: Memory.put m a v := by
  simp [Memory.put, h.not_gt, h.ne']

theorem Memory.erase_cons_same : Memory.erase ((a, x) :: m) a = Memory.erase m a := by simp [Memory.erase]

theorem Memory.erase_cons_of_ne (h : k ≠ a) : Memory.erase ((k, x) :: m) a = (k, x) :: Memory.erase m a := by
  simp [Memory.erase, h]

/-- Listing a value changes nothing exactly when it is listed already, with smaller addresses before it. -/
theorem Memory.put_cons_eq_self_iff : Memory.put ((k, x) :: m) b w = (k, x) :: m ↔
    (b = k ∧ x = w) ∨ (k < b ∧ Memory.put m b w = m) := by
  rcases lt_trichotomy b k with h | rfl | h
  · simp [Memory.put_cons_of_lt h, h.ne, h.not_gt]
  · simp [Memory.put_cons_same, eq_comm]
  · simp [Memory.put_cons_of_gt h, h, h.ne']

/-- Unlisting an address changes nothing exactly when it is not listed. -/
theorem Memory.erase_eq_self_iff : Memory.erase m b = m ↔ ∀ c ∈ m, c.1 ≠ b := by
  simp [Memory.erase, List.filter_eq_self]

theorem Memory.put_put_same (m : Memory) : (m.put a v).put a v = m.put a v := by
  induction m with
  | nil => exact put_cons_same
  | cons c m ih =>
    obtain ⟨k, x⟩ := c
    rcases lt_trichotomy a k with h | rfl | h
    · rw [put_cons_of_lt h, put_cons_same]
    · rw [put_cons_same, put_cons_same]
    · rw [put_cons_of_gt h, put_cons_of_gt h, ih]

theorem Memory.erase_erase_same (m : Memory) : (m.erase a).erase a = m.erase a :=
  erase_eq_self_iff.2 fun _ hc => by simpa using (List.mem_filter.1 hc).2

theorem Memory.put_put_of_listed (hab : a ≠ b) (h : m.put b w = m) : (m.put a v).put b w = m.put a v := by
  induction m with
  | nil => cases h
  | cons c m ih =>
    obtain ⟨k, x⟩ := c
    have hcases := put_cons_eq_self_iff.1 h
    rcases lt_trichotomy a k with hak | rfl | hak
    · rw [put_cons_of_lt hak, put_cons_eq_self_iff]
      exact .inr ⟨by omega, h⟩
    · rw [put_cons_same, put_cons_eq_self_iff]
      exact .inr (hcases.resolve_left fun hb => hab hb.1.symm)
    · rw [put_cons_of_gt hak, put_cons_eq_self_iff]
      exact hcases.imp_right fun ⟨hkb, hm⟩ => ⟨hkb, ih hm⟩

theorem Memory.put_erase_of_listed (hab : a ≠ b) (h : m.put b w = m) : (m.erase a).put b w = m.erase a := by
  induction m with
  | nil => cases h
  | cons c m ih =>
    obtain ⟨k, x⟩ := c
    have hcases := put_cons_eq_self_iff.1 h
    by_cases hka : k = a
    · subst hka
      rw [erase_cons_same]
      exact ih (hcases.resolve_left fun hb => hab hb.1.symm).2
    · rw [erase_cons_of_ne hka, put_cons_eq_self_iff]
      exact hcases.imp_right fun ⟨hkb, hm⟩ => ⟨hkb, ih hm⟩

theorem Memory.erase_put_of_unlisted (hab : a ≠ b) (h : m.erase b = m) : (m.put a v).erase b = m.put a v := by
  rw [erase_eq_self_iff] at h ⊢
  intro c hc
  rcases mem_put hc with rfl | hc
  · exact hab
  · exact h c hc

theorem Memory.erase_erase_of_unlisted (h : m.erase b = m) : (m.erase a).erase b = m.erase a := by
  rw [erase_eq_self_iff] at h ⊢
  exact fun c hc => h c (List.mem_of_mem_filter hc)

end

/-! Writing to a space. -/

theorem Memory.write_of_background {sp : Space} {v : Byte} (h : background sp = some v) (m : Memory) (a : Nat) :
    Memory.write sp m a v = m.erase a := if_pos h

theorem Memory.write_of_not_background {sp : Space} {v : Byte} (h : background sp ≠ some v) (m : Memory) (a : Nat) :
    Memory.write sp m a v = m.put a v := if_neg h

theorem Memory.write_write_same (sp : Space) (m : Memory) (a : Nat) (v : Byte) :
    Memory.write sp (Memory.write sp m a v) a v = Memory.write sp m a v := by
  by_cases hv : background sp = some v
  · simp only [write_of_background hv, erase_erase_same]
  · simp only [write_of_not_background hv, put_put_same]

/-- A memory that holds a value still holds it after a write to another address. -/
theorem Memory.write_write_of_held {sp : Space} {m : Memory} {a b : Nat} {w : Byte} (hab : a ≠ b)
    (h : Memory.write sp m b w = m) (v : Byte) :
    Memory.write sp (Memory.write sp m a v) b w = Memory.write sp m a v := by
  by_cases hw : background sp = some w <;> by_cases hv : background sp = some v
  · simp only [write_of_background hw, write_of_background hv] at h ⊢
    exact erase_erase_of_unlisted h
  · simp only [write_of_background hw, write_of_not_background hv] at h ⊢
    exact erase_put_of_unlisted hab h
  · simp only [write_of_not_background hw, write_of_background hv] at h ⊢
    exact put_erase_of_listed hab h
  · simp only [write_of_not_background hw, write_of_not_background hv] at h ⊢
    exact put_put_of_listed hab h

/-- After `MemWrite` a memory holds each byte of the sequence. -/
theorem Memory.write_writeRange_of_lt (sp : Space) (m : Memory) (a : Nat) {vs : List Byte} {k : Nat} (hk : k < vs.length) :
    Memory.write sp (Memory.writeRange sp m a vs) (a + k) vs[k] = Memory.writeRange sp m a vs := by
  induction vs generalizing a k with
  | nil => cases hk
  | cons v vs ih =>
    cases k with
    | zero => exact write_write_same sp _ a v
    | succ k =>
      have hheld := ih (a + 1) (Nat.lt_of_succ_lt_succ hk)
      rw [Nat.add_assoc, Nat.add_comm 1 k] at hheld
      exact write_write_of_held (by omega) hheld v

/-- `MemWrite` of bytes that the memory holds changes nothing. -/
theorem Memory.writeRange_of_held {sp : Space} {m : Memory} {a : Nat} {vs : List Byte}
    (h : ∀ k (hk : k < vs.length), Memory.write sp m (a + k) vs[k] = m) : Memory.writeRange sp m a vs = m := by
  induction vs generalizing a with
  | nil => rfl
  | cons v vs ih =>
    have htail : Memory.writeRange sp m (a + 1) vs = m := ih fun k hk => by
      rw [Nat.add_assoc, Nat.add_comm 1 k]
      exact h (k + 1) (Nat.succ_lt_succ hk)
    rw [Memory.writeRange, htail]
    exact h 0 (Nat.zero_lt_succ _)

theorem Memory.writeRange_writeRange_same (sp : Space) (m : Memory) (a : Nat) (vs : List Byte) :
    Memory.writeRange sp (Memory.writeRange sp m a vs) a vs = Memory.writeRange sp m a vs :=
  writeRange_of_held fun _ => write_writeRange_of_lt sp m a

end Sys2Proof.Machine

/-! The commands `DECODE` (O49 to O53) and `CLEAR` (O19). -/

namespace Sys2Proof.Machine

/-! `DECODE` by the length of the image (R221, R222). -/

/-- The stages after the length check: block 0 and the layout, which an image of one of the two sizes has (R221). -/
theorem decodeImage_of_resolve {I : List Byte} {lay : CardLayout} (h : resolve I = .ok lay) :
    decodeImage I = .ok ⟨block0Of I, lay⟩ := by
  have h16 : ¬ I.length < 16 := by
    rcases resolve_ok_cases h with ⟨hI, -⟩ | ⟨hI, -⟩ <;> omega
  rw [decodeImage, if_neg h16, h]

theorem decodeImage_of_short {I : List Byte} (h : I.length < 16) : decodeImage I = .error .tooShortForBlock0 := if_pos h

theorem decodeImage_of_resolve_error {I : List Byte} {e : FormatError} (h16 : ¬ I.length < 16)
    (h : resolve I = .error e) : decodeImage I = .error e := by
  rw [decodeImage, if_neg h16, h]

/-- An image of another size gives the first error of the pipeline (R222, R229). -/
theorem decodeImage_of_other_size {I : List Byte} (h1 : I.length ≠ 1024) (h4 : I.length ≠ 4096) : decodeImage I =
    .error (if I.length < 16 then .tooShortForBlock0 else if I.length % 16 ≠ 0 then .misalignedImage
      else .unsupportedCardSize) := by
  by_cases h16 : I.length < 16
  · rw [if_pos h16, decodeImage_of_short h16]
  · rw [if_neg h16]
    by_cases hmod : I.length % 16 ≠ 0
    · rw [if_pos hmod, decodeImage_of_resolve_error h16 (resolve_of_misaligned hmod)]
    · rw [if_neg hmod,
        decodeImage_of_resolve_error h16 (resolve_of_other_size (not_ne_iff.1 hmod) h1 h4)]

/-- Settles O50: the start block, the image stored, and the raise of the error that the length decides; or the start block
and the raise of one of the two parse errors. -/
theorem decodeOutcomeOfEachError : Obligations.DecodeOutcomeOfEachError := by
  refine ⟨fun s I hp h1 h4 => ?stored, fun s e hp => ?parseError⟩
  case stored =>
    rw [exec_decode_image_error hp (decodeImage_of_other_size h1 h4)]
    by_cases h16 : I.length < 16
    · simp only [if_pos h16]; rfl
    · by_cases hmod : I.length % 16 ≠ 0
      · simp only [if_neg h16, if_pos hmod]; rfl
      · simp only [if_neg h16, if_neg hmod]; rfl
  case parseError =>
    rw [exec_decode_parse_error hp]
    rcases parse_error_cases hp with rfl | ⟨line, off, len, rfl, -⟩ <;> rfl

/-! The block-0 registers (R225, R226). -/

/-- The year register holds `2000 +` the high nibble of byte 6 whole (R35, R225). -/
theorem block0Of_year_toNat (I : List Byte) : (block0Of I).year.toNat = 2000 + (I.getD 6 0).toNat / 16 := by
  have hbyte := (I.getD 6 0).isLt
  have hfits : 2000 + (I.getD 6 0).toNat / 16 < 2 ^ 16 := by omega
  exact (BitVec.toNat_ofNat ..).trans (Nat.mod_eq_of_lt hfits)

/-- The week register holds the low nibble of byte 6 whole (R36, R225). -/
theorem block0Of_week_toNat (I : List Byte) : (block0Of I).week.toNat = (I.getD 6 0).toNat % 16 :=
  (BitVec.toNat_ofNat ..).trans (Nat.mod_eq_of_lt (Nat.mod_lt _ (by decide)))

/-- Settles O51: a nibble is at most 15. -/
theorem yearAndWeekOfByte6 : Obligations.YearAndWeekOfByte6 := by
  refine ⟨fun I => ?_, by decide⟩
  have hyear := block0Of_year_toNat I
  have hbyte := (I.getD 6 0).isLt
  exact ⟨hyear, block0Of_week_toNat I, by omega, by omega⟩

/-! `DECODE` beside `PARSE` and `RESOLVE` (R228, R230). -/

/-- The image that a successful parse of the text leaves is the operand of a `RESOLVE` after it (R195, R230). -/
theorem image_after_parse {s : State} {I : List Byte} (h : parse s.text = .ok I) :
    (s.startImage.storeImage I).markDone.image = I :=
  image_storeImage s.startImage I (parse_ok_toNat_length h ▸ (BitVec.ofNat 32 I.length).isLt)

/-- Settles O49: `DECODE` writes the image, block 0 and the layout; `PARSE` and then `RESOLVE` write the same but for
block 0. -/
theorem decodeFillsBlock0AndLayout : Obligations.DecodeFillsBlock0AndLayout := by
  intro s I hp hsize
  obtain ⟨count, hcount⟩ : ∃ count, (I.length = 1024 ∧ count = 16) ∨ (I.length = 4096 ∧ count = 40) := by
    rcases hsize with h | h
    · exact ⟨16, .inl ⟨h, rfl⟩⟩
    · exact ⟨40, .inr ⟨h, rfl⟩⟩
  have hr := resolve_of_geometry hcount
  refine ⟨_, _, _, exec_parse_ok hp, exec_resolve_ok ((image_after_parse hp).symm ▸ hr),
    exec_decode_ok hp (decodeImage_of_resolve hr), rfl, rfl, rfl, rfl, rfl, rfl, parse_ok_toNat_length hp, ?_, rfl, rfl, rfl,
    rfl, rfl⟩
  rcases hcount with ⟨hI, rfl⟩ | ⟨hI, rfl⟩ <;> rw [hI] <;> rfl

/-- `RESOLVE` does not check for a block 0 (R209). -/
theorem resolve_error_ne_tooShort {I : List Byte} {e : FormatError} (h : resolve I = .error e) :
    e.code ≠ .tooShortForBlock0 := by
  rcases resolve_cases I with ⟨-, hI⟩ | ⟨-, -, -, hI⟩ | ⟨-, hI⟩ <;> cases hI.symm.trans h <;> decide

/-- Without an image there is no layout (R198). -/
theorem resolve_nil : resolve [] = .error .unsupportedCardSize := resolve_of_other_size rfl (by decide) (by decide)

theorem raise_err_code (s : State) (e : FormatError) : (s.raise e).err.code = e.code := ErrRegs.record_code e s.err

theorem raise_err_code_ne (s : State) (e : FormatError) : (s.raise e).err.code ≠ .noError :=
  raise_err_code s e ▸ e.code_ne

/-- Settles O52: by the end of `DECODE`. An image without a layout makes both `DECODE` and `RESOLVE` fail, and a text
without an image leaves `RESOLVE` an image of length 0. -/
theorem decodeMatchesParseThenResolve : Obligations.DecodeMatchesParseThenResolve := by
  intro s
  cases hp : parse s.text with
  | error e =>
    have hr : resolve (s.startImage.raise e).image = .error .unsupportedCardSize := resolve_nil
    exact ⟨_, _, _, exec_parse_error hp, exec_resolve_error hr, exec_decode_parse_error hp, rfl, rfl, rfl,
      fun h => absurd h (raise_err_code_ne _ e), rfl, rfl, raise_err_code _ _ ▸ resolve_error_ne_tooShort hr⟩
  | ok I =>
    have himg := image_after_parse hp
    cases hr : resolve I with
    | error e =>
      obtain ⟨h1, h4, -⟩ := resolve_error_cases hr
      exact ⟨_, _, _, exec_parse_ok hp, exec_resolve_error (himg.symm ▸ hr),
        exec_decode_image_error hp (decodeImage_of_other_size h1 h4), rfl, rfl, rfl,
        fun h => absurd h (raise_err_code_ne _ _), rfl, rfl, raise_err_code _ e ▸ resolve_error_ne_tooShort hr⟩
    | ok lay =>
      exact ⟨_, _, _, exec_parse_ok hp, exec_resolve_ok (himg.symm ▸ hr), exec_decode_ok hp (decodeImage_of_resolve hr),
        rfl, rfl, rfl, fun _ => ⟨rfl, rfl, rfl, rfl, rfl⟩, rfl, rfl, nofun⟩

/-! Commands issued twice (R230). -/

/-- Two states are equal if their images are and they agree in everything else. -/
theorem eq_of_img_eq {s t : State} (himg : s.img = t.img) (hrest : s = { t with img := s.img }) : s = t := by
  rw [hrest, himg]

/-- Settles O53: `PARSE` and `DECODE` keep the text and `RESOLVE` keeps the image, so the second run ends as the first
did; it writes the same registers, and its `MemWrite` changes no cell of `IMG`. -/
theorem decodeTwiceIsDecodeOnce : Obligations.DecodeTwiceIsDecodeOnce := by
  intro s i hi
  have hwrite (I : List Byte) := Memory.writeRange_writeRange_same .img s.img 0 I
  simp only [List.mem_cons, List.not_mem_nil, or_false] at hi
  rcases hi with rfl | rfl | rfl
  · cases hp : parse s.text with
    | error e => exact ⟨_, exec_parse_error hp, exec_parse_error (s := s.startImage.raise e) hp⟩
    | ok I =>
      refine ⟨_, exec_parse_ok hp, (exec_parse_ok (s := (s.startImage.storeImage I).markDone) hp).trans ?_⟩
      exact congrArg _ (eq_of_img_eq (hwrite I) rfl)
  · cases hr : resolve s.image with
    | error e => exact ⟨_, exec_resolve_error hr, exec_resolve_error (s := s.startLayout.raise e) hr⟩
    | ok lay => exact ⟨_, exec_resolve_ok hr, exec_resolve_ok (s := (s.startLayout.storeLayout lay).markDone) hr⟩
  · cases hp : parse s.text with
    | error e => exact ⟨_, exec_decode_parse_error hp, exec_decode_parse_error (s := s.startImage.raise e) hp⟩
    | ok I =>
      cases hd : decodeImage I with
      | error e =>
        refine ⟨_, exec_decode_image_error hp hd,
          (exec_decode_image_error (s := (s.startImage.storeImage I).raise e) hp hd).trans ?_⟩
        exact congrArg _ (eq_of_img_eq (hwrite I) rfl)
      | ok card =>
        refine ⟨_, exec_decode_ok hp hd, (exec_decode_ok (s :=
          (((s.startImage.storeImage I).storeBlock0 card.block0).storeLayout card.layout).markDone) hp hd).trans ?_⟩
        exact congrArg _ (eq_of_img_eq (hwrite I) rfl)

/-! The command `CLEAR` (R234). -/

/-- `CLEAR` gives every register its reset value (R50, R234). -/
theorem readReg_clearAll (s : State) (a : Nat) : s.clearAll.readReg a = State.reset.readReg a := rfl

/-- Settles O19: `IMG_LEN` gates `IMG`, `SEC` lists no cell, and `TXT` keeps its cells. -/
theorem clearGivesResetRegisters : Obligations.ClearGivesResetRegisters :=
  ⟨rfl, fun s => ⟨s.clearAll, exec_clear s, readReg_clearAll s,
    fun _ => rfl, fun a => congrArg (BitVec.setWidth 32) (readImg_of_imgLen_zero rfl a),
    fun a => congrArg (BitVec.setWidth 32) (readTxt_congr rfl rfl rfl a),
    rfl, rfl, rfl, rfl, rfl, rfl, rfl, rfl, rfl, rfl, rfl, rfl, rfl, rfl, rfl, rfl⟩⟩

end Sys2Proof.Machine

/-! The five errors: their rows (O31 to O33), what an error leaves unchanged (O34), and that the error state restricts no
command (O35). -/

namespace Sys2Proof.Machine

/-! The raise of an error and the rows of the opcode table (R250, R258). -/

/-- Settles O31: the record of `raise` by the kind of the error, and the codes of R109 and R110. -/
theorem raiseWritesTheErrorRecord : Obligations.RaiseWritesTheErrorRecord :=
  ⟨fun s line off len => raise_eq s (.invalidHexToken line off len), fun s => raise_eq s .noBlockData,
    fun s => raise_eq s .tooShortForBlock0, fun s => raise_eq s .misalignedImage,
    fun s => raise_eq s .unsupportedCardSize, rfl, by decide⟩

/-- The row of a token error writes its three words whole (R24, R258). -/
theorem exec_errInvalidHexToken (line off len : Word) (s : State) :
    exec (.errInvalidHexToken line off len) s = .next { s with
      status := { s.status with st := .error }, err := ⟨.invalidHexToken, line, off, len⟩ } := by
  have hrow : exec (.errInvalidHexToken line off len) s =
      .next (s.raise (.invalidHexToken line.toNat off.toNat len.toNat)) := rfl
  rw [hrow, raise_eq]
  simp [ErrRegs.record]

/-- The row of an error is its raise (R258, log entry 1). -/
theorem exec_errInstr (e : FormatError) (s : State) : exec (errInstr e) s = .next (s.raise e) := by
  cases e with
  | invalidHexToken line off len => exact exec_errInvalidHexToken _ _ _ s
  | _ => rfl

/-- Settles O32: four rows are the raise that O31 writes out, and the row of the token error carries words. -/
theorem errorRowsRaiseTheirError : Obligations.ErrorRowsRaiseTheirError := by
  obtain ⟨-, hnone, hshort, hmisaligned, hsize, -⟩ := raiseWritesTheErrorRecord
  exact ⟨fun s line off len => exec_errInvalidHexToken line off len s,
    fun s => (exec_errInstr .noBlockData s).trans (congrArg _ (hnone s)),
    fun s => (exec_errInstr .tooShortForBlock0 s).trans (congrArg _ (hshort s)),
    fun s => (exec_errInstr .misalignedImage s).trans (congrArg _ (hmisaligned s)),
    fun s => (exec_errInstr .unsupportedCardSize s).trans (congrArg _ (hsize s))⟩

/-- Settles O33: each failing command ends in the raise of its error, which is what the row of the error does. -/
theorem failingOperationsRaiseTheirRow : Obligations.FailingOperationsRaiseTheirRow := by
  intro s e
  refine ⟨fun hp => ⟨?_, ?_⟩, fun hr => ?_, fun I hp hd => ?_⟩ <;> rw [exec_errInstr]
  · exact exec_parse_error hp
  · exact exec_decode_parse_error hp
  · exact exec_resolve_error hr
  · exact exec_decode_image_error hp hd

/-! What a legal command leaves in `ST` and the error record (R259, R260). -/

/-- Every legal command is the meaning of a word, the one with its operation code (R107). -/
theorem legalCommands_eq_decodeCmd : legalCommands = (List.range 7).map fun n => decodeCmd (.ofNat 8 n) := by decide

theorem commandEffect_of_legal {i : Instr} {s t : State} (hi : i ∈ legalCommands) (h : exec i s = .next t) :
    CommandEffect s i t := by
  rw [legalCommands_eq_decodeCmd] at hi
  obtain ⟨n, -, rfl⟩ := List.mem_map.1 hi
  exact commandEffect_of_exec h

/-- A legal command ends without an error and with a clear record, or in `ERROR` with a code (R141, R258, R260). -/
theorem CommandEffect.errorState {s t : State} {i : Instr} (h : CommandEffect s i t) (hi : i ∈ legalCommands) :
    (t.status.st ≠ .error ∧ t.err = .clear) ∨ (t.status.st = .error ∧ t.err.code ≠ .noError) := by
  cases h with
  | illegal hn => exact absurd hi hn
  | parseRaised | resolveRaised | decodeImageRaised | decodeParseRaised => exact .inr ⟨rfl, raise_err_code_ne _ _⟩
  | _ => exact .inl ⟨nofun, rfl⟩

/-- The commands that can raise an error (R256). -/
def raisingCommands : List Instr := [.parse, .resolve, .decode]

/-- An image without a layout stands next to no block 0, so `RESOLVE` need not drop one (R48 items 3 and 4). -/
theorem b0Valid_of_resolve_error {s : State} {e : FormatError} (hs : Inv s) (h : resolve s.image = .error e) :
    s.status.b0Valid = false := by
  obtain ⟨-, himage, -⟩ := (inv_iff s).1 hs
  obtain ⟨h1, h4, -⟩ := resolve_error_cases h
  rw [image_length] at h1 h4
  exact Bool.eq_false_iff.2 fun hb => nomatch (himage.dropLayout h1 h4).block0_layout hb

/-- After an error neither block 0 nor a layout is valid (R259). -/
theorem results_dropped_of_error {s t : State} {i : Instr} (hs : Inv s) (hi : i ∈ raisingCommands)
    (h : exec i s = .next t) (herr : t.err.code ≠ .noError) : t.status.b0Valid = false ∧ t.status.layValid = false := by
  simp only [raisingCommands, List.mem_cons, List.not_mem_nil, or_false] at hi
  rcases hi with rfl | rfl | rfl
  · rcases execParse_cases s with ⟨I, -, hx⟩ | ⟨e, -, hx⟩ <;> cases hx.symm.trans h
    · exact absurd rfl herr
    · exact ⟨rfl, rfl⟩
  · rcases execResolve_cases s with ⟨lay, -, hx⟩ | ⟨e, he, hx⟩ <;> cases hx.symm.trans h
    · exact absurd rfl herr
    · exact ⟨b0Valid_of_resolve_error (s := s) hs he, rfl⟩
  · rcases execDecode_cases s with ⟨I, lay, -, -, -, hx⟩ | ⟨I, e, -, -, hx⟩ | ⟨e, -, hx⟩ <;> cases hx.symm.trans h
    · exact absurd rfl herr
    · exact ⟨rfl, rfl⟩
    · exact ⟨rfl, rfl⟩

/-- Settles O34: the frame of the three commands, and the flags that an error leaves at 0. -/
theorem errorsNeverTouchInputs : Obligations.ErrorsNeverTouchInputs := by
  intro s hs i hi
  have hkind : ∀ i ∈ raisingCommands, i ∈ legalCommands ∧ i ≠ .clear ∧ i ∉ leafCommands := by decide
  obtain ⟨hlegal, hclear, hleaf⟩ := hkind i hi
  obtain ⟨t, ht⟩ := exec_answers_next i s
  have heffect := commandEffect_of_legal hlegal ht
  refine ⟨t, ht, fun herr => ?_⟩
  have hst : t.status.st = .error := by
    rcases heffect.errorState hlegal with ⟨-, hclean⟩ | ⟨hst, -⟩
    · exact absurd (congrArg ErrRegs.code hclean) herr
    · exact hst
  obtain ⟨hb0, hlay⟩ := results_dropped_of_error hs hi ht herr
  obtain ⟨hlen, harg⟩ := heffect.inputs hclear
  exact ⟨hst, hb0, hlay, heffect.txt, hlen, harg, heffect.res hclear hleaf⟩

/-! What was in `ST`, `ILLCMD` and the error record before a command (R260, R289). -/

/-- The state with `ST`, `ILLCMD` and the error record replaced. -/
def State.setErrorState (st : St) (ill : Bool) (e : ErrRegs) (s : State) : State :=
  { s with status := { s.status with st := st, illcmd := ill }, err := e }

section
variable (st : St) (ill : Bool) (r : ErrRegs) (s : State)

/-- `PARSE` reads the text, clears `ILLCMD` and the record, and ends by writing `ST` (R141). -/
theorem exec_parse_setErrorState : exec .parse (s.setErrorState st ill r) = exec .parse s := by
  cases hp : parse s.text with
  | error e => exact (exec_parse_error (s := s.setErrorState st ill r) hp).trans (exec_parse_error hp).symm
  | ok I => exact (exec_parse_ok (s := s.setErrorState st ill r) hp).trans (exec_parse_ok hp).symm

/-- `RESOLVE` reads the image, clears `ILLCMD` and the record, and ends by writing `ST` (R210). -/
theorem exec_resolve_setErrorState : exec .resolve (s.setErrorState st ill r) = exec .resolve s := by
  cases hr : resolve s.image with
  | error e => exact (exec_resolve_error (s := s.setErrorState st ill r) hr).trans (exec_resolve_error hr).symm
  | ok lay => exact (exec_resolve_ok (s := s.setErrorState st ill r) hr).trans (exec_resolve_ok hr).symm

/-- `DECODE` reads the text, clears `ILLCMD` and the record, and ends by writing `ST` (R228). -/
theorem exec_decode_setErrorState : exec .decode (s.setErrorState st ill r) = exec .decode s := by
  cases hp : parse s.text with
  | error e => exact (exec_decode_parse_error (s := s.setErrorState st ill r) hp).trans (exec_decode_parse_error hp).symm
  | ok I =>
    cases hd : decodeImage I with
    | error e =>
      exact (exec_decode_image_error (s := s.setErrorState st ill r) hp hd).trans (exec_decode_image_error hp hd).symm
    | ok card => exact (exec_decode_ok (s := s.setErrorState st ill r) hp hd).trans (exec_decode_ok hp hd).symm

/-- No legal command reads `ST`, `ILLCMD` or the error record; `CLEAR` and the leaf commands write all three by their
definitions (R163, R174, R186, R234). -/
theorem exec_setErrorState {i : Instr} (hi : i ∈ legalCommands) : exec i (s.setErrorState st ill r) = exec i s := by
  simp only [legalCommands, List.mem_cons, List.not_mem_nil, or_false] at hi
  rcases hi with rfl | rfl | rfl | rfl | rfl | rfl | rfl
  · exact (exec_clear _).trans (exec_clear s).symm
  · exact exec_parse_setErrorState st ill r s
  · exact (exec_validate _).trans (exec_validate s).symm
  · exact (exec_lookup _).trans (exec_lookup s).symm
  · exact (exec_accdec _).trans (exec_accdec s).symm
  · exact exec_resolve_setErrorState st ill r s
  · exact exec_decode_setErrorState st ill r s

end

/-- Settles O35: no legal command reads the three (`exec_setErrorState`), and each leaves `ST` and the record in one of
two forms (`CommandEffect.errorState`). -/
theorem errorStateRestrictsNothing : Obligations.ErrorStateRestrictsNothing := by
  intro s st ill r i hi
  obtain ⟨t, ht⟩ := exec_answers_next i s
  exact ⟨exec_setErrorState st ill r s hi, t, ht, (commandEffect_of_legal hi ht).errorState hi⟩

end Sys2Proof.Machine

/-! The reset event (O18). -/

namespace Sys2Proof.Machine

/-- The access `reset` is the reset event of the block (R280). -/
theorem access_reset (s : State) : s.access .reset = .next s.hostReset := rfl

/-- With the event off the pending list, the fields kept are the list's rest, `TXT_MAX` and the value last read, and the
free content of `TXT` is a new one; every other field is that of `State.reset` (R50, R281, log entries 3 and 10). -/
theorem hostReset_with_pending (s : State) (rest : List HostAccess) :
    State.hostReset { s with pending := rest } =
      { State.reset with txtMax := s.txtMax, txtEpoch := s.txtEpoch + 1, pending := rest, readData := s.readData } := rfl

/-- Settles O18: the step takes the event off the list, and the access is `hostReset` of the state that is left. -/
theorem hostResetFromAnyState : Obligations.HostResetFromAnyState := by
  intro s rest hp
  calc step s
    _ = State.access .reset { s with pending := rest } := step_cons hp
    _ = .next (State.hostReset { s with pending := rest }) := access_reset _
    _ = _ := congrArg _ (hostReset_with_pending s rest)

end Sys2Proof.Machine
